-- ==== Sys2Proof/Word.lean ====
section
/-! DEFINITION. The value types of TC-CORE: bytes and the narrower bit fields of 30_encoding.md, the exact
rational temperatures of 00_scope.md rule R12, and what the outside world answers to one bus call. -/

namespace Sys2Proof

/-- An unsigned 8-bit value (rule R11). -/
abbrev Byte := BitVec 8

/-- A 4-bit field: a bridge configuration value (rule R25) or an error code (rule R211). -/
abbrev Nibble := BitVec 4

/-- The 2-bit code `RES = resolution - 9` (rule R84). All four codes are legal. -/
abbrev ResCode := BitVec 2

/-- Temperatures and everything computed from them: the exact rationals (rule R12). -/
abbrev Temp := ℚ

/-- The working unit `unit` (rules R38, R89). -/
inductive TempUnit where
  | celsius
  | fahrenheit
deriving DecidableEq, Repr, Inhabited

/-- What the environment answers to the one request the block has outstanding (rules R50 to R53). A bus
write takes any `reply` as success; a bus read takes the byte; a `Delay` ends with either answer, because
nothing can cut a delay short but a reset (rules R258, R241). -/
inductive Answer where
  | reply (b : Byte)
  | timeout
deriving DecidableEq, Repr, Inhabited

end Sys2Proof
end

