-- ==== Sys2Proof/Syntax.lean ====
section
/-! DEFINITION. The operations of TC-CORE: one constructor per row of spec/opcode_table.json (30_encoding.md
rules R70, R71, R79, R80, R82, R92), the words in which they are presented, and the ways a word can fail to
be one. -/

namespace Sys2Proof

/-- One row of the opcode table each, in the table's order. -/
inductive Instr where
  -- layer 3: operation codes of the block (rule R92)
  | checksum (bytes : Option (List Byte)) (offset length : Byte)
  | brReset
  | brWritecfg (bits : Nibble)
  | brResetch
  | brWritebyte (b : Byte)
  | brReadbyte
  | brReadbit
  | snInit (res : ResCode)
  | snMeasure
  | snDecode (lsb msb : Byte) (res : ResCode)
  | flRecord (sample : Temp)
  | flAverage
  | flReset
  | ctEval (avg : Temp)
  | ctSettarget (t : Temp)
  | ctSethyst (h : Temp)
  | ctSetunit (u : TempUnit)
  | ctModeNext
  | ctModePrev
  | orchTick
  | orchStart
  -- layer 1: bridge commands, byte 0 of a bus write (rule R71)
  | bcDevreset
  | bcSetptr (arg : Byte)
  | bcWritecfg (bits : Nibble)
  | bcChreset
  | bcSinglebit (arg : Byte)
  | bcWritebyte (arg : Byte)
  | bcReadbyte
  | bcTriplet
  -- layer 2: sensor command and data bytes on the channel (rules R79, R80, R82)
  | rcSearch
  | rcRead
  | rcMatch
  | rcSkip
  | rcAlarmsearch
  | fcConvert
  | fcWritesp
  | fcReadsp
  | fcCopysp
  | fcRecall
  | fcReadpower
  | resbyte9
  | resbyte10
  | resbyte11
  | resbyte12
deriving DecidableEq, Repr

/-- How the port carries an exact rational. Rule R93 leaves the representation to the realisation; here it
is a sign, a numerator and a denominator less one, so that every value of the three lines is a rational
(DESIGN CHOICE, log entry 6). -/
structure TempLine where
  neg : Bool
  num : Nat
  denPred : Nat
deriving DecidableEq, Repr, Inhabited

/-- The operand lines presented beside an operation code, each of the width rule R93 gives it. -/
structure Operands where
  bits : Nibble
  b : Byte
  lsb : Byte
  msb : Byte
  res : ResCode
  unit : BitVec 1
  offset : Byte
  length : Byte
  /-- The byte list of `CHECKSUM`; `none` is the absent list of rule R104. -/
  bytes : Option (List Byte)
  temp : TempLine
deriving DecidableEq, Repr, Inhabited

/-- Every operand line at zero, no byte list. -/
def Operands.zero : Operands := ⟨0, 0, 0, 0, 0, 0, 0, 0, none, ⟨false, 0, 0⟩⟩

/-- What can be presented for decoding: rule R77 says the position decides which layer a byte belongs to,
so a word carries its layer. -/
inductive Word where
  /-- Layer 3: an operation code with its operand lines. -/
  | op (code : Byte) (args : Operands)
  /-- Layer 1: the byte list of one bus write. -/
  | bus (bytes : List Byte)
  /-- Layer 2: one byte sent on the channel. -/
  | channel (b : Byte)
deriving DecidableEq, Repr

/-- Why a word is no instruction. -/
inductive DecodeError where
  /-- The operation code is not in the table of rule R92. -/
  | unknownOperation (code : Byte)
  /-- A byte list of more than 255 bytes, which the port cannot carry (rule R56). -/
  | listTooLong
  /-- A bus write of no bytes. -/
  | emptyBusWrite
  /-- Byte 0 of the bus write is no bridge command (rule R71). -/
  | unknownCommand (cmd : Byte)
  /-- A command of format `B1` without its argument byte (rule R70). -/
  | missingArgument (cmd : Byte)
  /-- The argument of write-configuration is none of the sixteen nibble-doubled bytes (rule R74). -/
  | notNibbleDoubled (arg : Byte)
  /-- More bytes than the command's format has (rule R70). -/
  | tooManyBytes (cmd : Byte)
  /-- The byte is no row of layer 2. -/
  | unknownChannelByte (b : Byte)
deriving DecidableEq, Repr

end Sys2Proof
end

