-- ==== Sys2Proof/WellFormed.lean ====
section
/-! DEFINITION. When an operation's operands are ones the spec's encodings can carry. -/

namespace Sys2Proof

/-- A byte list of `CHECKSUM` has 0 to 255 bytes (rules R56, R93); the operand of `CT_SETHYST` is a
magnitude (rules R93, R182). Every other operand is of a type whose every value is legal; that of
write-configuration is the four bits, so that its byte is always nibble-doubled (rule R74). -/
def Instr.wellFormed : Instr → Bool
  | .checksum bytes _ _ => match bytes with
    | none => true
    | some l => decide (l.length ≤ 255)
  | .ctSethyst h => decide (0 ≤ h)
  | .brReset | .brWritecfg _ | .brResetch | .brWritebyte _ | .brReadbyte | .brReadbit => true
  | .snInit _ | .snMeasure | .snDecode _ _ _ => true
  | .flRecord _ | .flAverage | .flReset => true
  | .ctEval _ | .ctSettarget _ | .ctSetunit _ | .ctModeNext | .ctModePrev => true
  | .orchTick | .orchStart => true
  | .bcDevreset | .bcSetptr _ | .bcWritecfg _ | .bcChreset | .bcSinglebit _ | .bcWritebyte _ | .bcReadbyte | .bcTriplet => true
  | .rcSearch | .rcRead | .rcMatch | .rcSkip | .rcAlarmsearch => true
  | .fcConvert | .fcWritesp | .fcReadsp | .fcCopysp | .fcRecall | .fcReadpower => true
  | .resbyte9 | .resbyte10 | .resbyte11 | .resbyte12 => true

/-- `i` is well formed. -/
abbrev Instr.WellFormed (i : Instr) : Prop := i.wellFormed = true

end Sys2Proof
end

