-- ==== Sys2Proof/Decode.lean ====
section
/-! DEFINITION. The decoder, total on every word and rejecting by name, and after it the encoder, both
written from the encoding tables of 30_encoding.md (rules R70, R71, R79, R80, R82, R92, R93). -/

namespace Sys2Proof

/-! ## Operand lines -/

/-- The signed rational on the temperature line (rule R93). -/
def TempLine.signed (l : TempLine) : Temp :=
  mkRat (if l.neg then -(l.num : Int) else (l.num : Int)) (l.denPred + 1)

/-- The magnitude on the temperature line: the port of `CT_SETHYST` is unsigned, so the sign is not wired
(rules R93, R182). -/
def TempLine.magnitude (l : TempLine) : Temp := mkRat (l.num : Int) (l.denPred + 1)

/-- The line that carries `q`. -/
def TempLine.ofTemp (q : Temp) : TempLine := ⟨decide (q.num < 0), q.num.natAbs, q.den - 1⟩

/-- The 1-bit `UNIT` code (rule R89). -/
def TempUnit.ofCode (u : BitVec 1) : TempUnit := if u = 0 then .celsius else .fahrenheit

/-- The 1-bit `UNIT` code (rule R89). -/
def TempUnit.code : TempUnit → BitVec 1
  | .celsius => 0
  | .fahrenheit => 1

/-- `cfgbyte(bits)`: low nibble `bits`, high nibble its complement (rule R74). -/
def cfgByte (bits : Nibble) : Byte := ~~~bits ++ bits

/-- The sixteen legal configuration bytes: the nibbles are complements (rule R74). -/
def NibbleDoubled (c : Byte) : Bool := (c >>> 4) ^^^ (c &&& 0x0F#8) == 0x0F#8

/-! ## Decoding -/

/-- Layer 3 (rule R92): the operation code chooses the operation, its operands stand on their lines. A
byte list longer than 255 bytes is no operand (rule R56). -/
def decodeOp (code : Byte) (a : Operands) : Except DecodeError Instr :=
  match code with
  | 0x01#8 =>
    match a.bytes with
    | none => .ok (.checksum none a.offset a.length)
    | some l => if l.length ≤ 255 then .ok (.checksum (some l) a.offset a.length) else .error .listTooLong
  | 0x10#8 => .ok .brReset
  | 0x11#8 => .ok (.brWritecfg a.bits)
  | 0x12#8 => .ok .brResetch
  | 0x13#8 => .ok (.brWritebyte a.b)
  | 0x14#8 => .ok .brReadbyte
  | 0x15#8 => .ok .brReadbit
  | 0x20#8 => .ok (.snInit a.res)
  | 0x21#8 => .ok .snMeasure
  | 0x22#8 => .ok (.snDecode a.lsb a.msb a.res)
  | 0x30#8 => .ok (.flRecord a.temp.signed)
  | 0x31#8 => .ok .flAverage
  | 0x32#8 => .ok .flReset
  | 0x40#8 => .ok (.ctEval a.temp.signed)
  | 0x41#8 => .ok (.ctSettarget a.temp.signed)
  | 0x42#8 => .ok (.ctSethyst a.temp.magnitude)
  | 0x43#8 => .ok (.ctSetunit (TempUnit.ofCode a.unit))
  | 0x44#8 => .ok .ctModeNext
  | 0x45#8 => .ok .ctModePrev
  | 0x50#8 => .ok .orchTick
  | 0x51#8 => .ok .orchStart
  | c => .error (.unknownOperation c)

/-- Layer 1, a bus write of one byte: the commands of format `B0` (rules R70, R71). The format of the
triplet command is not stated (rule R70); it is read without an argument (log entry 7). -/
def decodeBusOne (cmd : Byte) : Except DecodeError Instr :=
  match cmd with
  | 0xF0#8 => .ok .bcDevreset
  | 0xB4#8 => .ok .bcChreset
  | 0x96#8 => .ok .bcReadbyte
  | 0x78#8 => .ok .bcTriplet
  | 0xE1#8 => .error (.missingArgument 0xE1)
  | 0xD2#8 => .error (.missingArgument 0xD2)
  | 0x87#8 => .error (.missingArgument 0x87)
  | 0xA5#8 => .error (.missingArgument 0xA5)
  | c => .error (.unknownCommand c)

/-- Layer 1, a bus write of two bytes: the commands of format `B1` (rules R70, R71). A configuration byte that is
not nibble-doubled is none the block can send (rule R74). -/
def decodeBusTwo (cmd arg : Byte) : Except DecodeError Instr :=
  match cmd with
  | 0xE1#8 => .ok (.bcSetptr arg)
  | 0xD2#8 => if NibbleDoubled arg then .ok (.bcWritecfg (arg.setWidth 4)) else .error (.notNibbleDoubled arg)
  | 0x87#8 => .ok (.bcSinglebit arg)
  | 0xA5#8 => .ok (.bcWritebyte arg)
  | 0xF0#8 => .error (.tooManyBytes 0xF0)
  | 0xB4#8 => .error (.tooManyBytes 0xB4)
  | 0x96#8 => .error (.tooManyBytes 0x96)
  | 0x78#8 => .error (.tooManyBytes 0x78)
  | c => .error (.unknownCommand c)

/-- Layer 1 (rules R70, R98): byte 0 alone decides the length of a bus write. -/
def decodeBus : List Byte → Except DecodeError Instr
  | [] => .error .emptyBusWrite
  | [cmd] => decodeBusOne cmd
  | [cmd, arg] => decodeBusTwo cmd arg
  | cmd :: _ => .error (.tooManyBytes cmd)

/-- Layer 2 (rules R79, R80, R82): the bytes with a row of their own. -/
def decodeChannel (b : Byte) : Except DecodeError Instr :=
  match b with
  | 0xF0#8 => .ok .rcSearch
  | 0x33#8 => .ok .rcRead
  | 0x55#8 => .ok .rcMatch
  | 0xCC#8 => .ok .rcSkip
  | 0xEC#8 => .ok .rcAlarmsearch
  | 0x44#8 => .ok .fcConvert
  | 0x4E#8 => .ok .fcWritesp
  | 0xBE#8 => .ok .fcReadsp
  | 0x48#8 => .ok .fcCopysp
  | 0xB8#8 => .ok .fcRecall
  | 0xB4#8 => .ok .fcReadpower
  | 0x1F#8 => .ok .resbyte9
  | 0x3F#8 => .ok .resbyte10
  | 0x5F#8 => .ok .resbyte11
  | 0x7F#8 => .ok .resbyte12
  | c => .error (.unknownChannelByte c)

/-- The decoder. -/
def decode : Word → Except DecodeError Instr
  | .op code args => decodeOp code args
  | .bus bytes => decodeBus bytes
  | .channel b => decodeChannel b

/-! ## Encoding -/

/-- The word of each operation, from the same tables. -/
def encode : Instr → Word
  | .checksum l o n =>
    .op 0x01 { Operands.zero with bytes := l, offset := o, length := n }
  | .brReset => .op 0x10 Operands.zero
  | .brWritecfg bits => .op 0x11 { Operands.zero with bits := bits }
  | .brResetch => .op 0x12 Operands.zero
  | .brWritebyte b => .op 0x13 { Operands.zero with b := b }
  | .brReadbyte => .op 0x14 Operands.zero
  | .brReadbit => .op 0x15 Operands.zero
  | .snInit res => .op 0x20 { Operands.zero with res := res }
  | .snMeasure => .op 0x21 Operands.zero
  | .snDecode lsb msb res => .op 0x22 { Operands.zero with lsb := lsb, msb := msb, res := res }
  | .flRecord x => .op 0x30 { Operands.zero with temp := TempLine.ofTemp x }
  | .flAverage => .op 0x31 Operands.zero
  | .flReset => .op 0x32 Operands.zero
  | .ctEval x => .op 0x40 { Operands.zero with temp := TempLine.ofTemp x }
  | .ctSettarget x => .op 0x41 { Operands.zero with temp := TempLine.ofTemp x }
  | .ctSethyst x => .op 0x42 { Operands.zero with temp := TempLine.ofTemp x }
  | .ctSetunit u => .op 0x43 { Operands.zero with unit := u.code }
  | .ctModeNext => .op 0x44 Operands.zero
  | .ctModePrev => .op 0x45 Operands.zero
  | .orchTick => .op 0x50 Operands.zero
  | .orchStart => .op 0x51 Operands.zero
  | .bcDevreset => .bus [0xF0]
  | .bcSetptr arg => .bus [0xE1, arg]
  | .bcWritecfg bits => .bus [0xD2, cfgByte bits]
  | .bcChreset => .bus [0xB4]
  | .bcSinglebit arg => .bus [0x87, arg]
  | .bcWritebyte arg => .bus [0xA5, arg]
  | .bcReadbyte => .bus [0x96]
  | .bcTriplet => .bus [0x78]
  | .rcSearch => .channel 0xF0
  | .rcRead => .channel 0x33
  | .rcMatch => .channel 0x55
  | .rcSkip => .channel 0xCC
  | .rcAlarmsearch => .channel 0xEC
  | .fcConvert => .channel 0x44
  | .fcWritesp => .channel 0x4E
  | .fcReadsp => .channel 0xBE
  | .fcCopysp => .channel 0x48
  | .fcRecall => .channel 0xB8
  | .fcReadpower => .channel 0xB4
  | .resbyte9 => .channel 0x1F
  | .resbyte10 => .channel 0x3F
  | .resbyte11 => .channel 0x5F
  | .resbyte12 => .channel 0x7F

/-! ## Rights and table words -/

/-- The operations the host may issue (rule R92's column "issued by"; `FL_AVERAGE` as a read, rules R95,
R45). Every other operation is internal. -/
def Instr.hostMayIssue : Instr → Bool
  | .checksum _ _ _ | .snInit _ | .flAverage => true
  | .ctSettarget _ | .ctSethyst _ | .ctSetunit _ | .ctModeNext | .ctModePrev => true
  | .orchStart => true
  | .brReset | .brWritecfg _ | .brResetch | .brWritebyte _ | .brReadbyte | .brReadbit => false
  | .snMeasure | .snDecode _ _ _ | .flRecord _ | .flReset | .ctEval _ | .orchTick => false
  | .bcDevreset | .bcSetptr _ | .bcWritecfg _ | .bcChreset | .bcSinglebit _ | .bcWritebyte _ | .bcReadbyte | .bcTriplet => false
  | .rcSearch | .rcRead | .rcMatch | .rcSkip | .rcAlarmsearch => false
  | .fcConvert | .fcWritesp | .fcReadsp | .fcCopysp | .fcRecall | .fcReadpower => false
  | .resbyte9 | .resbyte10 | .resbyte11 | .resbyte12 => false

/-- Whether a bridge command is followed by an argument byte (rule R70). -/
def takesArgument (cmd : Byte) : Bool := cmd == 0xE1#8 || cmd == 0xD2#8 || cmd == 0x87#8 || cmd == 0xA5#8

/-- The layers a table word could belong to, read in this order: operation code, bus write, channel byte.
Three byte values stand in two layers (0x44, 0xF0, 0xB4; rule R77 lets the position decide): the first
layer that has the byte takes it (log entry 5). An argument byte the row gives no bits is 0, which
write-configuration cannot carry (rule R74): that word decodes to nothing. -/
def tableWord (nbits w : Nat) : Word :=
  let b0 : Byte := BitVec.ofNat 8 w
  let b1 : Byte := BitVec.ofNat 8 (w / 256)
  match decodeOp b0 Operands.zero with
  | .ok _ => .op b0 Operands.zero
  | .error _ =>
    if takesArgument b0 then .bus [b0, if nbits ≤ 8 then 0 else b1]
    else match decodeBusOne b0 with
      | .ok _ => .bus [b0]
      | .error _ => .channel b0

/-- The instruction the decoder reads from a row's bits, every bit above them zero. -/
def decodeTableWord (nbits w : Nat) : Option Instr :=
  match decode (tableWord nbits w) with
  | .ok i => some i
  | .error _ => none

end Sys2Proof
end

