-- ==== Sys2Proof/Config.lean ====
section
/-! DEFINITION. What the spec leaves to a parameter (00_scope.md rules R9, R10; 92_eei_decisions.md) and the
free values of the model. The parameters are a plain record which every state carries and no step changes;
the four platform values that no rule depends on, and the values nothing constrains, are opaque. -/

namespace Sys2Proof

/-- `WINDOW_CAP` (rule R9): the depth of the averaging window. -/
def Config.windowCap : Nat := 16

/-- The parameters of rule R10, but for the four platform values (below). -/
structure Params where
  /-- `CRC_TABLE` (rules R22, R102; D4): the 256 bytes of the checksum table. -/
  crcTable : Vector Byte 256
  /-- `CRC_INIT` (rule R103; D5): the accumulator before the first byte. -/
  crcInit : Byte
  /-- `CFG_APU`, the active-pullup mask (rule R73; D7). No operation reads it: none writes a configuration
  with that bit of its own accord. -/
  cfgApu : Nibble
  /-- `CFG_SPU`, the strong-pullup mask (rule R73; D7), the default of `CFG_STRONG`. -/
  cfgSpu : Nibble
  /-- `CFG_1WS`, the bus-speed mask (rule R73; D7). No operation reads it. -/
  cfg1ws : Nibble
  /-- `PTR_DATA`: read-pointer code of the bridge's data register (D8, open). -/
  ptrData : Byte
  /-- `BIT_TIMING`: argument of the single-bit command (D9, open). -/
  bitTiming : Byte
  /-- `CFG_STRONG`: the configuration value that opens a strong-pullup window (D12). -/
  cfgStrong : Nibble
  /-- `COPY_SETTLE_MS` (D19, open). -/
  copySettleMs : ℚ
  /-- `RETRY_LIMIT` (D16, open): a natural number, or `none` for the unbounded loop. -/
  retryLimit : Option Nat
  /-- `RESET_TARGET` (D30, open). -/
  resetTarget : Temp
  /-- `RESET_HYST` (D30, open). -/
  resetHyst : Temp
  /-- `RESET_UNIT` (D30, open). -/
  resetUnit : TempUnit
  /-- `RoundT` (D3): `none` is the identity, the default; `some k` is the free rounding function number `k`. -/
  rounding : Option Nat
deriving DecidableEq, Repr

/-- What the spec requires of its parameters: `RETRY_LIMIT ≥ 2` or unbounded (rule R146), `RESET_HYST ≥ 0`
(rule R182), and bit 1 of a configuration always 0, in the three masks and in `CFG_STRONG` (rule R73). -/
structure Params.Legal (p : Params) : Prop where
  retry_ge_two : ∀ n, p.retryLimit = some n → 2 ≤ n
  hyst_nonneg : 0 ≤ p.resetHyst
  bit_one_clear : ∀ m ∈ [p.cfgApu, p.cfgSpu, p.cfg1ws, p.cfgStrong], m.getLsbD 1 = false

/-- `BUS_TIMEOUT_MS` (D20): bounds the real time of one bus call; no rule reads it (rule R54). -/
opaque Config.busTimeoutMs : ℚ

/-- `TICK_PERIOD_MS` (D31): no rule depends on it (rule R201). -/
opaque Config.tickPeriodMs : ℚ

/-- `BRIDGE_ADDR` (D37): opaque to every rule (rule R57). -/
opaque Config.bridgeAddr : Nat

/-- `BUS_CLOCK_HZ` (D37): opaque to every rule (rule R57). -/
opaque Config.busClockHz : Nat

/-- The free rounding functions `Params.rounding` can name (rule R12). -/
opaque Config.roundFn : Nat → Temp → Temp

/-- FREE VALUE: the environment's answer where no answer has been supplied (rule R53: any answer). -/
opaque Config.freeAnswer : Nat → Answer

/-- FREE VALUE: whether a tick that arrives while a host operation is waiting and the block is free goes
first (rule R218: a model must allow both orders). -/
opaque Config.tickFirst : Nat → Bool

end Sys2Proof
end

