-- ==== Sys2Proof/Machine/State.lean ====
section
/-! DEFINITION. The state of TC-CORE (10_state.md), the outside world it answers to (20_memory.md rule R53,
60_exceptions.md rules R226, R230), the reasons a step can stop, and the state after reset (rule R44). -/

namespace Sys2Proof.Machine

/-! ## The codes the block holds -/

/-- `MODE` (rules R35, R86): every 2-bit value is a mode. -/
inductive Mode where
  | off | cool | heat | hold
deriving DecidableEq, Repr, Inhabited

/-- `STATE` (rules R36, R87): `reserved` is the code `0b11`, the one unrecognised value the block can hold. -/
inductive CtlState where
  | idle | heating | cooling | reserved
deriving DecidableEq, Repr, Inhabited

/-- `DRIVE` (rules R37, R88): `reserved` is the code `0b11`, which no rule writes. -/
inductive Drive where
  | off | heat | cool | reserved
deriving DecidableEq, Repr, Inhabited

/-- The error kinds (rule R211): exactly the nine codes 0 to 8. -/
inductive Err where
  | noError
  | transportTimeout
  | bridgeNotPresent
  | noChannelPresence
  | romChecksumInvalid
  | measurementFailed
  | invariantViolation
  | checksumInputError
  | illegalOperation
deriving DecidableEq, Repr, Inhabited

/-- `sn_phase` (rules R21, R148). -/
inductive SnPhase where
  | idle | busReset | broadcast | convertTriggered | converting | scratchpadRead
  | checksumInvalid | checksumValid | decoded
deriving DecidableEq, Repr, Inhabited

/-- `br_phase` (rules R21, R119). -/
inductive BrPhase where
  | brIdle | brCommand | brPoll | brPointer | brFetch
deriving DecidableEq, Repr, Inhabited

/-! ## What the block lets be seen -/

/-- The two notifications to the host (rule R226); a fatal error carries its code (rule R215). -/
inductive Notification where
  | measurementComplete (v : Temp)
  | fatalError (e : Err)
deriving DecidableEq, Repr

/-- One entry of the event history (rule R69). -/
inductive Event where
  /-- One `BusWrite` and whether it returned (`true`) or timed out. -/
  | busWrite (bytes : List Byte) (ok : Bool)
  /-- One `BusRead(1)`: the byte, or `none` for a timeout. -/
  | busRead (answer : Option Byte)
  /-- One `Delay` that ran its time. -/
  | delay (ms : ℚ)
  /-- A change of `drive`. -/
  | drive (d : Drive)
  | notify (n : Notification)
deriving DecidableEq, Repr

/-- The value part of a result (rules R92, R94). -/
inductive Value where
  | byte (b : Byte)
  | bit (b : Bool)
  | temp (t : Temp)
deriving DecidableEq, Repr

/-- The pair `(err, value)` an operation hands back (rule R94). -/
structure HostResult where
  err : Err
  value : Option Value
deriving DecidableEq, Repr

/-! ## The registers -/

/-- Every register of 10_state.md, and the event history of rule R69. A field that the spec calls optional
is `none` while it holds no value (rules R24 to R32, R44). -/
structure Block where
  snPhase : SnPhase
  brPhase : BrPhase
  /-- `last_status` (rule R24). -/
  lastStatus : Option Byte
  /-- `cfg_shadow` (rule R25). -/
  cfgShadow : Option Nibble
  /-- `rom[0..7]` (rule R26); the eight bytes are only ever written together (rule R140). -/
  rom : Option (Vector Byte 8)
  /-- `sp[0..8]` (rule R27); the nine bytes are only ever written together (rule R145). -/
  sp : Option (Vector Byte 9)
  /-- `resolution` as its code `RES` (rule R28). -/
  resolution : Option ResCode
  /-- `parasitic` (rule R29). -/
  parasitic : Option Bool
  /-- `initialized` (rule R30). -/
  initialized : Bool
  /-- `last_reading`, degrees Celsius (rule R32). -/
  lastReading : Option Temp
  /-- `win`, oldest first (rule R33). -/
  win : List Temp
  /-- `len` (rule R33). -/
  len : Nat
  /-- `sum` (rule R33). -/
  sum : Temp
  /-- `mode` (rule R35). -/
  mode : Mode
  /-- `state` (rule R36). -/
  state : CtlState
  /-- `drive` (rule R37). -/
  drive : Drive
  /-- `target` (rule R38). -/
  target : Temp
  /-- `hyst` (rule R38). -/
  hyst : Temp
  /-- `high` (rule R38). -/
  high : Temp
  /-- `low` (rule R38). -/
  low : Temp
  /-- `unit` (rule R38). -/
  unit : TempUnit
  /-- `ticking` (rule R40). -/
  ticking : Bool
  /-- `error` (rule R40). -/
  error : Err
  /-- The event history, oldest first (rule R69); a record of the run, not a register. -/
  history : List Event
deriving DecidableEq, Repr

/-- The registers after a reset with these parameters (rule R44), the history so far kept. -/
def Block.reset (p : Params) (history : List Event) : Block where
  snPhase := .idle
  brPhase := .brIdle
  lastStatus := none
  cfgShadow := none
  rom := none
  sp := none
  resolution := none
  parasitic := none
  initialized := false
  lastReading := none
  win := []
  len := 0
  sum := 0
  mode := .off
  state := .idle
  drive := .off
  target := p.resetTarget
  hyst := p.resetHyst
  high := p.resetTarget + p.resetHyst
  low := p.resetTarget - p.resetHyst
  unit := p.resetUnit
  ticking := false
  error := .noError
  history := history

/-! ## The outside world -/

/-- A request that an operation be performed: from the host's port (rule R91), or from the block's own
sequencer (an internal operation, bus write or channel byte; log entry 4). -/
inductive Request where
  | host (code : Byte) (args : Operands)
  | invoke (w : Word)
deriving DecidableEq, Repr

/-- One thing the outside world does, in order of arrival. -/
inductive Stimulus where
  /-- The environment answers the outstanding request (rule R53). -/
  | answer (a : Answer)
  /-- A tick event (rule R230). -/
  | tick
  /-- The platform asserts reset (rule R240). -/
  | reset
  | request (r : Request)
deriving DecidableEq, Repr

/-- An operation that has asked the environment for something it has not been given yet: what was started,
the registers it started from, and every answer it has been given so far. -/
structure InProgress where
  instr : Instr
  start : Block
  heard : List Answer
deriving DecidableEq, Repr

/-! ## The machine -/

/-- The whole machine. `block` holds what the spec gives the block. The other fields are the model's own:
the parameters of rule R10, the operation in progress, what the outside world does next, the requests held
until the block is free (rule R60), how many free values have been drawn, and the last result handed
back (rule R94). -/
structure State where
  block : Block
  params : Params
  busy : Option InProgress
  outside : List Stimulus
  waiting : List Request
  drawn : Nat
  result : Option HostResult
deriving DecidableEq, Repr

/-- A register that holds no value. -/
inductive Absent where
  | resolution
  | parasitic
  | average
deriving DecidableEq, Repr

/-- Why the machine stops with a fault. -/
inductive Fault where
  /-- Raised by `SN_MEASURE` (and `ORCH_TICK`) when it reads `resolution`, `parasitic` or the average while
  it holds the "no value" of rules R28, R29, R44 and R162: 10_state.md, lines 6 to 8, orders that "a model must make
  a read of it a fault and must not pick zero", and rule R142 has the precondition `initialized = 1` (log entry 2).
  Safe: no state reachable from reset through the host and the tick reaches it (rule R43 f, g). -/
  | noValue (r : Absent)
deriving DecidableEq, Repr

/-- Why the machine refuses an instruction. -/
inductive Refusal where
  /-- Raised by an arm of `exec` whose instruction has no meaning yet. Safe: nothing is claimed of it. -/
  | notModelled (mnemonic : String)
  /-- Raised by the rows rule R96 defines as constants with no operation: the block never emits them and
  the spec gives them no behaviour. Safe: nothing is claimed of what they would do. -/
  | noOperation (mnemonic : String)
  /-- Raised by the step when the block's own sequencer is handed a word that decodes to nothing. Safe: the
  block never hands itself one (rule R78). -/
  | notAWord (e : DecodeError)
deriving DecidableEq, Repr

/-- The machine right after reset with parameters `p`, nothing having arrived. -/
def State.resetWith (p : Params) : State where
  block := Block.reset p []
  params := p
  busy := none
  outside := []
  waiting := []
  drawn := 0
  result := none

/-- The machine right after reset (rules R44, R240), at the suggested parameters of rule R10. -/
def State.reset : State := State.resetWith Params.suggested

end Sys2Proof.Machine
end

