-- ==== Sys2Proof/Machine/Flags.lean ====
section
/-! DEFINITION. The status flags: the eight bits of the bridge's status byte held in `last_status` (rules
R24, R72), each by its mask. The block tests four of them; the other four are kept and ignored (rule R121). -/

namespace Sys2Proof.Machine

/-- Whether the status byte `s` has a bit of `mask` set. -/
def statusBit (mask s : Byte) : Bool := (s &&& mask) != 0

/-- `ST_BUSY`, tested by the busy-poll (rule R117). -/
def stBusy (s : Byte) : Bool := statusBit 0x01 s

/-- `ST_PRESENCE`, tested by `BR_RESETCH` (rule R115). -/
def stPresence (s : Byte) : Bool := statusBit 0x02 s

/-- `ST_SHORT`, tested by no rule. -/
def stShort (s : Byte) : Bool := statusBit 0x04 s

/-- `ST_LEVEL`, tested by no rule. -/
def stLevel (s : Byte) : Bool := statusBit 0x08 s

/-- `ST_DEVRESET`, tested by `BR_RESET` (rule R113). -/
def stDevReset (s : Byte) : Bool := statusBit 0x10 s

/-- `ST_SBR`, the single-bit result, tested by `BR_READBIT` (rule R118). -/
def stSingleBit (s : Byte) : Bool := statusBit 0x20 s

/-- `ST_TSB`, tested by no rule. -/
def stTripletBit2 (s : Byte) : Bool := statusBit 0x40 s

/-- `ST_DIR`, tested by no rule. -/
def stBranchDir (s : Byte) : Bool := statusBit 0x80 s

end Sys2Proof.Machine
end

