-- ==== Sys2Proof/Machine/Operands.lean ====
section
/-! DEFINITION. The operand forms and code tables of 30_encoding.md: the wire bytes, the resolution
bytes, the codes of the enumerations, the per-resolution constants, and unit conversion. -/

namespace Sys2Proof.Machine

/-! ## Wire bytes (rules R71, R79, R80) -/

abbrev Wire.deviceReset : Byte := 0xF0
abbrev Wire.setReadPointer : Byte := 0xE1
abbrev Wire.writeConfiguration : Byte := 0xD2
abbrev Wire.channelReset : Byte := 0xB4
abbrev Wire.singleBit : Byte := 0x87
abbrev Wire.writeByte : Byte := 0xA5
abbrev Wire.readByte : Byte := 0x96
abbrev Wire.triplet : Byte := 0x78
abbrev Wire.romSearch : Byte := 0xF0
abbrev Wire.romRead : Byte := 0x33
abbrev Wire.romMatch : Byte := 0x55
abbrev Wire.romSkip : Byte := 0xCC
abbrev Wire.romAlarmSearch : Byte := 0xEC
abbrev Wire.convert : Byte := 0x44
abbrev Wire.writeScratchpad : Byte := 0x4E
abbrev Wire.readScratchpad : Byte := 0xBE
abbrev Wire.copyScratchpad : Byte := 0x48
abbrev Wire.recallEe : Byte := 0xB8
abbrev Wire.readPowerSupply : Byte := 0xB4

/-! ## Operand bytes the block builds -/

/-- `resbyte(RES) = (RES << 5) | 0x1F` (rule R82). -/
def resByte (res : ResCode) : Byte := (res.setWidth 8 <<< 5) ||| 0x1F

/-- The resolution in bits, 9 to 12 (rule R84). -/
def resolutionBits (res : ResCode) : Nat := res.toNat + 9

/-- The decode shift `s = 12 - resolution` (rule R85). -/
def decodeShift (res : ResCode) : Nat := 12 - resolutionBits res

/-- The scale factor `2^-(resolution - 8)`, degrees per count (rule R85). -/
def decodeScale (res : ResCode) : ℚ := 1 / 2 ^ (resolutionBits res - 8)

/-- `T_CONV` in milliseconds: 750 at 12 bits, halving per bit removed (rules R9, R85). -/
def tConvMs (res : ResCode) : ℚ := 750 / 2 ^ decodeShift res

/-! ## Codes of the enumerations (rules R86 to R89, R211) -/

def Mode.code : Mode → BitVec 2
  | .off => 0b00
  | .cool => 0b01
  | .heat => 0b10
  | .hold => 0b11

def Mode.ofCode (c : BitVec 2) : Mode :=
  if c = 0b00 then .off else if c = 0b01 then .cool else if c = 0b10 then .heat else .hold

def CtlState.code : CtlState → BitVec 2
  | .idle => 0b00
  | .heating => 0b01
  | .cooling => 0b10
  | .reserved => 0b11

def Drive.code : Drive → BitVec 2
  | .off => 0b00
  | .heat => 0b01
  | .cool => 0b10
  | .reserved => 0b11

def Err.code : Err → Nibble
  | .noError => 0
  | .transportTimeout => 1
  | .bridgeNotPresent => 2
  | .noChannelPresence => 3
  | .romChecksumInvalid => 4
  | .measurementFailed => 5
  | .invariantViolation => 6
  | .checksumInputError => 7
  | .illegalOperation => 8

/-- The fatal kinds are the codes 1 to 6 (rule R212). -/
def Err.fatal (e : Err) : Bool := 1#4 ≤ e.code && e.code ≤ 6#4

/-! ## Units and rounding -/

/-- `ToUnit` (rule R164). -/
def toUnit (c : Temp) : TempUnit → Temp
  | .celsius => c
  | .fahrenheit => c * (9 / 5) + 32

/-- `RoundT` (rule R12): the identity unless the parameters name another function. -/
def roundT (p : Params) (t : Temp) : Temp :=
  match p.rounding with
  | none => t
  | some k => Config.roundFn k t

/-! ## Outputs -/

/-- `DriveOf` (rule R175), the identity on the three legal codes (rule R88). It is applied only after
`CT_EVAL` has returned, so never to the reserved state; that arm is off, since no rule writes the reserved
drive code (rule R88). -/
def driveOf : CtlState → Drive
  | .idle => .off
  | .heating => .heat
  | .cooling => .cool
  | .reserved => .off

/-- `heat_out` (rule R41): decoded from the one register `drive`, 0 for the reserved code. -/
def Block.heatOut (b : Block) : Bool := b.drive == .heat

/-- `cool_out` (rule R41). -/
def Block.coolOut (b : Block) : Bool := b.drive == .cool

end Sys2Proof.Machine
end

