-- ==== Sys2Proof/Machine/Ops.lean ====
section
/-! DEFINITION. The shared operations: the named register updates, the bus primitives and helpers of
20_memory.md and 41_bridge.md, the safe-state transition (taking an exception, 60_exceptions.md rule R222)
and the restart (the way back, rule R224), and how an operation that talks to the bus is performed. -/

namespace Sys2Proof.Machine

/-! ## Register updates -/

/-- Append one event to the history (rule R69). -/
def Block.emit (b : Block) (e : Event) : Block := { b with history := b.history ++ [e] }

def Block.setSnPhase (b : Block) (ph : SnPhase) : Block := { b with snPhase := ph }

def Block.setBrPhase (b : Block) (ph : BrPhase) : Block := { b with brPhase := ph }

/-- Both sequencers back to idle, as on a raised error (rules R119, R148). -/
def Block.idlePhases (b : Block) : Block := { b with snPhase := .idle, brPhase := .brIdle }

def Block.setLastStatus (b : Block) (s : Byte) : Block := { b with lastStatus := some s }

def Block.setCfgShadow (b : Block) (bits : Nibble) : Block := { b with cfgShadow := some bits }

def Block.setSp (b : Block) (v : Vector Byte 9) : Block := { b with sp := some v }

def Block.setLastReading (b : Block) (t : Temp) : Block := { b with lastReading := some t }

/-- The window, its length and its sum, written together (rule R33). -/
def Block.setWindow (b : Block) (win : List Temp) (sum : Temp) : Block :=
  { b with win := win, len := win.length, sum := sum }

def Block.setMode (b : Block) (m : Mode) : Block := { b with mode := m }

def Block.setState (b : Block) (q : CtlState) : Block := { b with state := q }

/-- `target` and `hyst` with the thresholds derived from them, all in one write (rules R38, R180, R181). -/
def Block.setSetpoint (b : Block) (target hyst : Temp) : Block :=
  { b with target := target, hyst := hyst, high := target + hyst, low := target - hyst }

def Block.setUnit (b : Block) (u : TempUnit) : Block := { b with unit := u }

/-- The commit of `SN_INIT`: four fields together (rule R140). -/
def Block.commitInit (b : Block) (rom : Vector Byte 8) (parasitic : Bool) (res : ResCode) : Block :=
  { b with rom := some rom, parasitic := some parasitic, resolution := some res, initialized := true }

/-- One write of `drive`; the history records it only when it is a change (rule R69). -/
def Block.putDrive (b : Block) (d : Drive) : Block :=
  { b with drive := d, history := if b.drive = d then b.history else b.history ++ [.drive d] }

/-! ## Taking an exception, and the way back -/

/-- `SafeState(E)` (rule R222): drive off, ticking halted, the error recorded, the host notified, in this
order, and nothing else written. -/
def Block.safeState (b : Block) (e : Err) : Block :=
  ({ b.putDrive .off with ticking := false, error := e }).emit (.notify (.fatalError e))

/-- The restart of `ORCH_START` (rules R200, R224): nothing is restored, because nothing was saved. -/
def Block.restart (b : Block) : Block := { b with error := .noError, ticking := true }

/-! ## Operations that talk to the environment -/

/-- What an operation works on: the registers, and the environment's answers not yet consumed. -/
structure Ctx where
  block : Block
  answers : List Answer
deriving DecidableEq, Repr

/-- How an operation can end without returning. -/
inductive Halt where
  /-- `raise E` (rule R13). -/
  | raised (e : Err)
  /-- It has made a request that the environment has not answered yet. -/
  | waiting
  /-- It read a register that holds no value. -/
  | stopped (f : Fault)
deriving DecidableEq, Repr

/-- An operation in the notation of rule R13: statements in order, the first failing one ends it (rules R14,
R218). -/
abbrev Op (α : Type) := EStateM Halt Ctx α

/-- A register update as a statement. -/
def update (f : Block → Block) : Op Unit := fun c => .ok () { c with block := f c.block }

/-- Read the registers. -/
def look : Op Block := fun c => .ok c.block c

/-- `raise E` (rule R13); both sequencers return to idle (rules R119, R148). -/
def raise {α : Type} (e : Err) : Op α := fun c => .error (.raised e) { c with block := c.block.idlePhases }

/-- Go on only if `ok` holds; else `raise e`. -/
def require (ok : Bool) (e : Err) : Op Unit := if ok then pure () else raise e

/-- The value of an optional register. Reading one that holds "no value" stops the machine, as 10_state.md orders
at its head, lines 5 to 8: "a model must make a read of it a fault and must not pick zero" (log entry 2). -/
def present {α : Type} (r : Absent) (v : Option α) : Op α :=
  match v with
  | some a => pure a
  | none => fun c => .error (.stopped (.noValue r)) c

/-- `BusWrite(bytes)` (rules R51, R54): returns, or raises `TransportTimeout`. The event is recorded with its
outcome, when the environment has answered; a call that a reset cuts off before that leaves none (DESIGN CHOICE, log
entry 32). -/
def busWrite (bytes : List Byte) : Op Unit := fun c =>
  match c.answers with
  | [] => .error .waiting c
  | .reply _ :: rest => .ok () ⟨c.block.emit (.busWrite bytes true), rest⟩
  | .timeout :: rest => raise .transportTimeout ⟨c.block.emit (.busWrite bytes false), rest⟩

/-- `BusRead(1)` (rules R52, R54). Every read of the block moves one byte. Its event, too, is recorded with its
outcome, so a read that a reset cuts off leaves none (DESIGN CHOICE, log entry 32). -/
def busRead : Op Byte := fun c =>
  match c.answers with
  | [] => .error .waiting c
  | .reply d :: rest => .ok d ⟨c.block.emit (.busRead (some d)), rest⟩
  | .timeout :: rest => raise .transportTimeout ⟨c.block.emit (.busRead none), rest⟩

/-- `Delay(ms)` (rules R13, R258): nothing the environment says can shorten it or make it fail; the event
is recorded when the time has run, so a reset that cuts the delay short (rule R241) leaves none (log entry 13). -/
def delay (ms : ℚ) : Op Unit := fun c =>
  match c.answers with
  | [] => .error .waiting c
  | _ :: rest => .ok () ⟨c.block.emit (.delay ms), rest⟩

/-- `STATUS()` (rule R112): one bare status read. -/
def status : Op Byte := do
  let s ← busRead
  update (·.setLastStatus s)
  pure s

/-- The busy-poll's loop, on the answers still to come: read the status until its busy bit is clear
(rule R117). There is no bound on the number of reads. -/
def pollFrom : List Answer → Block → EStateM.Result Halt Ctx Unit
  | [], b => .error .waiting ⟨b, []⟩
  | .timeout :: rest, b => raise .transportTimeout ⟨b.emit (.busRead none), rest⟩
  | .reply s :: rest, b =>
    let b' := (b.emit (.busRead (some s))).setLastStatus s
    if stBusy s then pollFrom rest b' else .ok () ⟨b', rest⟩

/-- `POLL()` (rule R117). -/
def poll : Op Unit := fun c => pollFrom c.answers c.block

/-! ## Performing an operation -/

/-- The answers at the head of the outside world's list, and what comes after them. -/
def takeAnswers : List Stimulus → List Answer × List Stimulus
  | .answer a :: rest => let (as, later) := takeAnswers rest; (a :: as, later)
  | later => ([], later)

/-- An operation without a result (rule R92: "none"). -/
def noResult (op : Op Unit) : Op (Option Value) := do
  op
  pure none

/-- Perform operation `op` for instruction `i` on the answers the environment has given. If it returns, the
registers are as it left them and its result is handed back; if it raises a fatal error, the one recovery
boundary makes it the safe state (rules R220, R221) and hands back the code; if it runs out of answers it
is in progress, and the step resumes it. `reports` says whether a result is handed back at all: the tick's
errors are "caught inside, never returned" (rule R214). -/
def perform (i : Instr) (reports : Bool) (op : Op (Option Value)) (s : State) :
    Host.Outcome State Fault Refusal :=
  let (as, later) := takeAnswers s.outside
  match op ⟨s.block, as⟩ with
  | .ok v c => .next { s with
      block := c.block, busy := none, outside := c.answers.map .answer ++ later,
      result := if reports then some ⟨.noError, v⟩ else s.result }
  | .error (.raised e) c => .next { s with
      block := c.block.safeState e, busy := none, outside := c.answers.map .answer ++ later,
      result := if reports then some ⟨e, none⟩ else s.result }
  | .error .waiting c => .next { s with
      block := c.block, busy := some ⟨i, s.block, as⟩, outside := later }
  | .error (.stopped f) _ => .fault f

/-- An operation that only computes: it leaves the registers `b` and hands back `v`. -/
def complete (b : Block) (v : Option Value) (s : State) : Host.Outcome State Fault Refusal :=
  .next { s with block := b, busy := none, result := some ⟨.noError, v⟩ }

/-- An operation turned away without any effect, its code handed back (rules R95, R213). -/
def turnAway (e : Err) (s : State) : Host.Outcome State Fault Refusal :=
  .next { s with busy := none, result := some ⟨e, none⟩ }

/-- Reset (rules R240, R241): every register at its reset value, the operation in progress abandoned with
no error, no notification and no result; the requests held for later are dropped (log entry 9). The
history goes on, with the change of `drive` if there is one; what the abandoned operation had asked and not been
answered is in no event (log entries 13, 32). -/
def State.hardReset (s : State) : State := { s with
  block := Block.reset s.params (s.block.putDrive .off).history
  busy := none
  waiting := []
  result := none }

end Sys2Proof.Machine
end

