-- ==== Sys2Proof/Machine/Filter.lean ====
section
/-! DEFINITION. The Averaging Filter (43_filter.md). -/

namespace Sys2Proof.Machine

/-- `FL_RECORD(sample)` (rule R161): convert, append, add; over the capacity, drop the oldest and
subtract it. -/
def Block.record (p : Params) (b : Block) (sample : Temp) : Block :=
  let x := roundT p (toUnit sample b.unit)
  match b.win ++ [x] with
  | [] => b
  | oldest :: rest =>
    if Config.windowCap < (oldest :: rest).length then b.setWindow rest (b.sum + x - oldest)
    else b.setWindow (oldest :: rest) (b.sum + x)

/-- `FL_AVERAGE()` (rule R162): the sum over the current length; an empty window has no average. -/
def Block.average (b : Block) : Option Temp := if b.len = 0 then none else some (b.sum / b.len)

/-- `FL_RESET()` (rule R163). -/
def Block.clearWindow (b : Block) : Block := b.setWindow [] 0

/-! ## Meanings -/

/-- `FL_RECORD` (rule R161). -/
def execFlRecord (sample : Temp) (s : State) : Host.Outcome State Fault Refusal :=
  complete (s.block.record s.params sample) none s

/-- `FL_AVERAGE` (rule R162): as a host read, an empty window shows the "no value" marker (rule R45). -/
def execFlAverage (s : State) : Host.Outcome State Fault Refusal :=
  complete s.block (s.block.average.map .temp) s

/-- `FL_RESET` (rule R163). -/
def execFlReset (s : State) : Host.Outcome State Fault Refusal :=
  complete s.block.clearWindow none s

end Sys2Proof.Machine
end

