-- ==== Sys2Proof/Machine/Controller.lean ====
section
/-! DEFINITION. The Hysteresis Controller (44_controller.md). -/

namespace Sys2Proof.Machine

/-- The four arms of rule R171 in their priority order, on the mode `m` and state `q` before. -/
def nextState (m : Mode) (q : CtlState) (avg target high low : Temp) : CtlState :=
  if (m = .cool ∨ (m = .hold ∧ q = .idle)) ∧ high ≤ avg then .cooling
  else if (m = .heat ∨ (m = .hold ∧ q = .idle)) ∧ avg ≤ low then .heating
  else if ((m = .cool ∨ (m = .hold ∧ q = .cooling)) ∧ avg ≤ target)
      ∨ ((m = .heat ∨ (m = .hold ∧ q = .heating)) ∧ target ≤ avg)
      ∨ m = .off then .idle
  else q

/-- The state `CT_EVAL` writes, from the controller's own registers. -/
def Block.evaluated (b : Block) (avg : Temp) : CtlState :=
  nextState b.mode b.state avg b.target b.high b.low

/-- `CT_EVAL(avg)` (rules R171, R217): the reserved state raises; otherwise `state` alone is written. -/
def ctEval (avg : Temp) : Op Unit := do
  let b ← look
  require (decide (b.state ≠ .reserved)) .invariantViolation
  update (fun b => b.setState (b.evaluated avg))

/-- The outputs follow the state in one write (rule R178). -/
def Block.applyDrive (b : Block) : Block := b.putDrive (driveOf b.state)

/-- `CT_SETUNIT(u)` (rule R183): a change of unit empties the window and converts no setpoint. -/
def Block.changeUnit (b : Block) (u : TempUnit) : Block :=
  if u = b.unit then b else (b.setUnit u).clearWindow

/-- Mode cycling forward (rule R184): `mode + 1 mod 4` on the codes. -/
def Mode.next (m : Mode) : Mode := Mode.ofCode (m.code + 1)

/-- Mode cycling backward (rule R185): `mode + 3 mod 4` on the codes. -/
def Mode.prev (m : Mode) : Mode := Mode.ofCode (m.code + 3)

/-! ## Meanings -/

/-- `CT_EVAL` (rule R171). -/
def execCtEval (avg : Temp) (s : State) : Host.Outcome State Fault Refusal :=
  perform (.ctEval avg) true (noResult (ctEval avg)) s

/-- `CT_SETTARGET` (rule R180). -/
def execCtSettarget (t : Temp) (s : State) : Host.Outcome State Fault Refusal :=
  complete (s.block.setSetpoint t s.block.hyst) none s

/-- `CT_SETHYST` (rule R181). -/
def execCtSethyst (h : Temp) (s : State) : Host.Outcome State Fault Refusal :=
  complete (s.block.setSetpoint s.block.target h) none s

/-- `CT_SETUNIT` (rule R183). -/
def execCtSetunit (u : TempUnit) (s : State) : Host.Outcome State Fault Refusal :=
  complete (s.block.changeUnit u) none s

/-- `CT_MODE_NEXT` (rule R184). -/
def execCtModeNext (s : State) : Host.Outcome State Fault Refusal :=
  complete (s.block.setMode s.block.mode.next) none s

/-- `CT_MODE_PREV` (rule R185). -/
def execCtModePrev (s : State) : Host.Outcome State Fault Refusal :=
  complete (s.block.setMode s.block.mode.prev) none s

end Sys2Proof.Machine
end

