-- ==== Sys2Proof/Machine/Bridge.lean ====
section
/-! DEFINITION. The Bridge Protocol Driver (41_bridge.md): the six operations as sequences of bus
transactions, and their meanings when they are performed by themselves. -/

namespace Sys2Proof.Machine

/-! ## The operations -/

/-- The first bus write of an operation (rule R119: `BrCommand`). -/
def sendCommand (bytes : List Byte) : Op Unit := do
  update (·.setBrPhase .brCommand)
  busWrite bytes

/-- The one status read of an operation that does not wait for busy (rules R119, R123). -/
def sampleStatus : Op Byte := do
  update (·.setBrPhase .brPoll)
  status

/-- The busy-poll in its phase (rules R117, R119). -/
def waitNotBusy : Op Unit := do
  update (·.setBrPhase .brPoll)
  poll

/-- The end of an operation: back to `BrIdle` (rule R119). -/
def bridgeDone : Op Unit := update (·.setBrPhase .brIdle)

/-- `BR_RESET()` (rule R113). -/
def brReset : Op Unit := do
  sendCommand [Wire.deviceReset]
  let s ← sampleStatus
  require (stDevReset s) .bridgeNotPresent
  bridgeDone

/-- `BR_WRITECFG(bits)` (rule R114). -/
def brWritecfg (bits : Nibble) : Op Unit := do
  sendCommand [Wire.writeConfiguration, cfgByte bits]
  update (·.setCfgShadow bits)
  bridgeDone

/-- `BR_RESETCH()` (rule R115). -/
def brResetch : Op Unit := do
  sendCommand [Wire.channelReset]
  let s ← sampleStatus
  require (stPresence s) .noChannelPresence
  bridgeDone

/-- `BR_WRITEBYTE(b)` (rule R116): it ends when the busy bit clears, with no fetch. -/
def brWritebyte (b : Byte) : Op Unit := do
  sendCommand [Wire.writeByte, b]
  waitNotBusy
  bridgeDone

/-- `BR_READBIT() -> bit` (rule R118). -/
def brReadbit (p : Params) : Op Bool := do
  sendCommand [Wire.singleBit, p.bitTiming]
  let s ← sampleStatus
  bridgeDone
  pure (stSingleBit s)

/-- `BR_READBYTE() -> Byte` (rule R120): the final fetch is a data byte and leaves `last_status` alone. -/
def brReadbyte (p : Params) : Op Byte := do
  sendCommand [Wire.readByte]
  waitNotBusy
  update (·.setBrPhase .brPointer)
  busWrite [Wire.setReadPointer, p.ptrData]
  update (·.setBrPhase .brFetch)
  let d ← busRead
  bridgeDone
  pure d

/-! ## Meanings -/

/-- `BR_RESET` (rule R113). -/
def execBrReset (s : State) : Host.Outcome State Fault Refusal :=
  perform .brReset true (noResult brReset) s

/-- `BR_WRITECFG` (rule R114). -/
def execBrWritecfg (bits : Nibble) (s : State) : Host.Outcome State Fault Refusal :=
  perform (.brWritecfg bits) true (noResult (brWritecfg bits)) s

/-- `BR_RESETCH` (rule R115). -/
def execBrResetch (s : State) : Host.Outcome State Fault Refusal :=
  perform .brResetch true (noResult brResetch) s

/-- `BR_WRITEBYTE` (rule R116). -/
def execBrWritebyte (b : Byte) (s : State) : Host.Outcome State Fault Refusal :=
  perform (.brWritebyte b) true (noResult (brWritebyte b)) s

/-- `BR_READBYTE` (rule R120). -/
def execBrReadbyte (s : State) : Host.Outcome State Fault Refusal :=
  perform .brReadbyte true (do let d ← brReadbyte s.params; pure (some (.byte d))) s

/-- `BR_READBIT` (rule R118). -/
def execBrReadbit (s : State) : Host.Outcome State Fault Refusal :=
  perform .brReadbit true (do let d ← brReadbit s.params; pure (some (.bit d))) s

end Sys2Proof.Machine
end

