-- ==== Sys2Proof/Machine/Checksum.lean ====
section
/-! DEFINITION. The Checksum Engine (40_checksum.md). -/

namespace Sys2Proof.Machine

/-! ## The engine -/

/-- `CRC_TABLE[i]`: there is an entry for every byte (rule R22). -/
def crcLookup (p : Params) (i : Byte) : Byte := p.crcTable[i.toNat]

/-- One byte of the checksum: exclusive-or into the accumulator, then the table (rules R100, R101). -/
def crcStep (p : Params) (acc b : Byte) : Byte := crcLookup p (acc ^^^ b)

/-- The accumulator `acc` (rule R23) over a list of bytes, in increasing index (rule R101). -/
def crcFold (p : Params) (acc : Byte) (bytes : List Byte) : Byte := bytes.foldl (crcStep p) acc

/-- `CHECKSUM(bytes, offset, length)` (rules R101, R103, R104): the sum `offset + length` does not wrap. -/
def checksum (p : Params) (bytes : Option (List Byte)) (offset length : Nat) : Except Err Byte :=
  match bytes with
  | none => .error .checksumInputError
  | some l =>
    if length = 0 ∨ l.length < offset + length then .error .checksumInputError
    else .ok (crcFold p p.crcInit ((l.drop offset).take length))

/-- Whether a record whose byte `k` is a checksum over bytes `0` to `k - 1` is valid (rule R105). -/
def recordValid (p : Params) (l : List Byte) (k : Nat) : Bool :=
  match checksum p (some l) 0 k, l[k]? with
  | .ok c, some d => c == d
  | _, _ => false

/-! ## The bit-serial form (rule R107) -/

/-- One bit: `m <- acc[0] ^ b[j]`, shift right, and fold in the polynomial if `m` is 1. -/
def serialBit (acc : Byte) (bit : Bool) : Byte :=
  if (acc.getLsbD 0).xor bit then (acc >>> 1) ^^^ 0x8C else acc >>> 1

/-- One byte, bits 0 to 7 in order. -/
def serialByte (acc b : Byte) : Byte :=
  (List.range 8).foldl (fun a j => serialBit a (b.getLsbD j)) acc

/-! ## Meaning -/

/-- `CHECKSUM` (rules R101, R104, R213): the checksum, or `ChecksumInputError`, which is handed back and
changes nothing. -/
def execChecksum (bytes : Option (List Byte)) (offset length : Byte) (s : State) :
    Host.Outcome State Fault Refusal :=
  match checksum s.params bytes offset.toNat length.toNat with
  | .ok c => complete s.block (some (.byte c)) s
  | .error e => turnAway e s

end Sys2Proof.Machine
end

