-- ==== Sys2Proof/Machine/Sensor.lean ====
section
/-! DEFINITION. The Sensor Protocol Driver (42_sensor.md): initialisation, measurement and temperature
decode, built from the operations of Bridge.lean alone (rule R130). -/

namespace Sys2Proof.Machine

/-! ## Common parts -/

/-- `SELECT()` (rule R133): channel reset and the skip-ROM broadcast. -/
def select : Op Unit := do
  brResetch
  brWritebyte Wire.romSkip

/-- `READBYTES(n)` (rule R134): `n` bytes, index 0 fetched first; an error discards them all. -/
def readBytes (p : Params) : (n : Nat) → Op (Vector Byte n)
  | 0 => pure #v[]
  | n + 1 => do
    let v ← readBytes p n
    let d ← brReadbyte p
    pure (v.push d)

/-! ## The steps of SN_INIT -/

/-- `ReadRom()` and its validation (rules R135, R136): read once, nothing re-read on a mismatch. -/
def readRom (p : Params) : Op (Vector Byte 8) := do
  brResetch
  brWritebyte Wire.romRead
  let r ← readBytes p 8
  require (recordValid p r.toList 7) .romChecksumInvalid
  pure r

/-- `ProbePower()` (rule R137): parasitic exactly when the single-bit result is 0. -/
def probePower (p : Params) : Op Bool := do
  select
  brWritebyte Wire.readPowerSupply
  let bit ← brReadbit p
  pure (!bit)

/-- `WriteResolution(RES)` (rule R138): scratchpad bytes 2, 3, 4 in index order. -/
def writeResolution (res : ResCode) : Op Unit := do
  select
  brWritebyte Wire.writeScratchpad
  brWritebyte 0x00
  brWritebyte 0x00
  brWritebyte (resByte res)

/-- The strong-pullup window of a parasitically powered sensor (rules R139, R143). -/
def strongPullup (p : Params) (parasitic : Bool) : Op Unit :=
  if parasitic then brWritecfg p.cfgStrong else pure ()

/-- `CopyToEeprom(p)` (rule R139). -/
def copyToEeprom (p : Params) (parasitic : Bool) : Op Unit := do
  select
  strongPullup p parasitic
  brWritebyte Wire.copyScratchpad
  if parasitic then delay p.copySettleMs else pure ()

/-- `SN_INIT(RES)` after the refusal test (rules R131, R132, R140): five steps, then the commit. -/
def snInit (p : Params) (res : ResCode) : Op Unit := do
  brReset
  let rom ← readRom p
  let parasitic ← probePower p
  writeResolution res
  copyToEeprom p parasitic
  update (·.commitInit rom parasitic res)

/-! ## Temperature decode -/

/-- The raw temperature word, least significant byte first (rule R58). -/
def rawWord (lsb msb : Byte) : BitVec 16 := (msb.setWidth 16 <<< 8) ||| lsb.setWidth 16

/-- The magnitude of the raw word: its 16-bit two's-complement negation if bit 15 is set (rule R150). -/
def rawMagnitude (raw : BitVec 16) : BitVec 16 := if raw.getLsbD 15 then ~~~raw + 1 else raw

/-- `SN_DECODE` (rule R150): sign times integer part plus the kept fraction, then `RoundT`. -/
def decodeTemp (p : Params) (lsb msb : Byte) (res : ResCode) : Temp :=
  let raw := rawWord lsb msb
  let mag := rawMagnitude raw
  let sign : ℚ := if raw.getLsbD 15 then -1 else 1
  let int : ℚ := (mag >>> 4).toNat
  let frac : ℚ := ((mag &&& 0xF#16) >>> decodeShift res).toNat * decodeScale res
  roundT p (sign * (int + frac))

/-! ## SN_MEASURE -/

/-- `TriggerConversion()` (rule R143). -/
def triggerConversion (p : Params) : Op Unit := do
  update (·.setSnPhase .busReset)
  brResetch
  update (·.setSnPhase .broadcast)
  brWritebyte Wire.romSkip
  let b ← look
  let parasitic ← present .parasitic b.parasitic
  strongPullup p parasitic
  update (·.setSnPhase .convertTriggered)
  brWritebyte Wire.convert

/-- The conversion wait (rule R144). -/
def conversionWait (res : ResCode) : Op Unit := do
  update (·.setSnPhase .converting)
  delay (tConvMs res)

/-- `ReadScratchpad()` (rule R145): a whole channel transaction, all nine bytes. -/
def readScratchpad (p : Params) : Op (Vector Byte 9) := do
  update (·.setSnPhase .scratchpadRead)
  brResetch
  brWritebyte Wire.romSkip
  brWritebyte Wire.readScratchpad
  let v ← readBytes p 9
  update (·.setSp v)
  pure v

/-- The retry loop (rules R142, R146, R147): `attempts` reads have been made; a further one starts only
while the limit is not reached. `fuel` only bounds the recursion: every attempt consumes an answer, so
one more than there are answers is never used up (`scratchpadLoop_fuel` in Laws). -/
def scratchpadLoop (p : Params) : (fuel : Nat) → (attempts : Nat) → Op (Vector Byte 9)
  | 0, _ => fun c => .error .waiting c
  | fuel + 1, attempts => do
    require (decide (p.retryLimit ≠ some attempts)) .measurementFailed
    let v ← readScratchpad p
    if recordValid p v.toList 8 then do
      update (·.setSnPhase .checksumValid)
      pure v
    else do
      update (·.setSnPhase .checksumInvalid)
      scratchpadLoop p fuel (attempts + 1)

/-- The retry loop from its start, with room for every answer there is. -/
def validScratchpad (p : Params) : Op (Vector Byte 9) := fun c =>
  scratchpadLoop p (c.answers.length + 1) 0 c

/-- `SN_MEASURE()` (rule R142). -/
def snMeasure (p : Params) : Op Temp := do
  triggerConversion p
  let b ← look
  let res ← present .resolution b.resolution
  conversionWait res
  let sp ← validScratchpad p
  update (·.setSnPhase .decoded)
  update (·.setSnPhase .idle)
  pure (decodeTemp p sp[0] sp[1] res)

/-! ## Meanings -/

/-- `SN_INIT` (rule R131): refused while ticking; otherwise the five steps and the commit. -/
def execSnInit (res : ResCode) (s : State) : Host.Outcome State Fault Refusal :=
  if s.block.ticking then turnAway .illegalOperation s
  else perform (.snInit res) true (noResult (snInit s.params res)) s

/-- `SN_MEASURE` (rule R142). -/
def execSnMeasure (s : State) : Host.Outcome State Fault Refusal :=
  perform .snMeasure true (do let v ← snMeasure s.params; pure (some (.temp v))) s

/-- `SN_DECODE` (rule R150): no register is written. -/
def execSnDecode (lsb msb : Byte) (res : ResCode) (s : State) : Host.Outcome State Fault Refusal :=
  complete s.block (some (.temp (decodeTemp s.params lsb msb res))) s

end Sys2Proof.Machine
end

