-- ==== Sys2Proof/Machine/Orchestrator.lean ====
section
/-! DEFINITION. The Polling Orchestrator (45_orchestrator.md). -/

namespace Sys2Proof.Machine

/-- The cycle of a tick (rule R196): measure, record, average, evaluate, apply, notify. -/
def tickBody (p : Params) : Op Unit := do
  let v ← snMeasure p
  update (·.setLastReading v)
  update (fun b => b.record p v)
  let b ← look
  let a ← present .average b.average
  ctEval a
  update (·.applyDrive)
  update (·.emit (.notify (.measurementComplete v)))

/-! ## Meanings -/

/-- `ORCH_TICK` (rule R196): nothing while ticking is halted; otherwise the cycle, every error caught and
made the safe state, none handed back. -/
def execOrchTick (s : State) : Host.Outcome State Fault Refusal :=
  if s.block.ticking then perform .orchTick false (noResult (tickBody s.params)) s else .next s

/-- `ORCH_START` (rule R200): refused before a successful `SN_INIT`; otherwise `error` is cleared and
`ticking` set. -/
def execOrchStart (s : State) : Host.Outcome State Fault Refusal :=
  if s.block.initialized then complete s.block.restart none s else turnAway .illegalOperation s

end Sys2Proof.Machine
end

