-- ==== Sys2Proof/Machine/WireBridge.lean ====
section
/-! DEFINITION. The rows of layer 1 (30_encoding.md rules R70, R71): each is the one `BusWrite` that carries
the command, with its argument where it has one, performed by itself (log entry 8). The operations of
Bridge.lean send the same commands as their first or later transaction. Two commands have one argument in
this block: the read-pointer code is always `PTR_DATA` and the timing byte always `BIT_TIMING` (rules R55, R71,
R75, R76, R96), and with any other argument nothing is sent. -/

namespace Sys2Proof.Machine

/-- A bridge command by itself: one bus write, in its phase. -/
def commandAlone (ph : BrPhase) (bytes : List Byte) : Op Unit := do
  update (·.setBrPhase ph)
  busWrite bytes
  bridgeDone

/-- `BC_DEVRESET` 0xF0 (rules R71, R113). -/
def execBcDevreset (s : State) : Host.Outcome State Fault Refusal :=
  perform .bcDevreset true (noResult (commandAlone .brCommand [Wire.deviceReset])) s

/-- A command whose argument is the constant `only`: with it, the command by itself; with any other, an operand
the block gives no meaning, which is turned away with `IllegalOperation` and no bus transaction (rules R18, R96;
DESIGN CHOICE, log entry 8). -/
def fixedArgument (i : Instr) (ph : BrPhase) (cmd only arg : Byte) (s : State) : Host.Outcome State Fault Refusal :=
  if arg = only then perform i true (noResult (commandAlone ph [cmd, arg])) s else turnAway .illegalOperation s

/-- `BC_SETPTR` 0xE1 with its read-pointer code (rules R71, R75, R120): the block never sets the read pointer to
anything but the data register (rule R55). -/
def execBcSetptr (arg : Byte) (s : State) : Host.Outcome State Fault Refusal :=
  fixedArgument (.bcSetptr arg) .brPointer Wire.setReadPointer s.params.ptrData arg s

/-- `BC_WRITECFG` 0xD2 with its nibble-doubled configuration byte (rules R71, R74, R114); the low nibble of the
last configuration byte written is kept in `cfg_shadow` (rule R25). -/
def execBcWritecfg (bits : Nibble) (s : State) : Host.Outcome State Fault Refusal :=
  perform (.bcWritecfg bits) true (noResult (do
    commandAlone .brCommand [Wire.writeConfiguration, cfgByte bits]
    update (·.setCfgShadow bits))) s

/-- `BC_CHRESET` 0xB4 (rules R71, R115). -/
def execBcChreset (s : State) : Host.Outcome State Fault Refusal :=
  perform .bcChreset true (noResult (commandAlone .brCommand [Wire.channelReset])) s

/-- `BC_SINGLEBIT` 0x87 with its timing byte (rules R71, R76, R118), always `BIT_TIMING`. -/
def execBcSinglebit (arg : Byte) (s : State) : Host.Outcome State Fault Refusal :=
  fixedArgument (.bcSinglebit arg) .brCommand Wire.singleBit s.params.bitTiming arg s

/-- `BC_WRITEBYTE` 0xA5 with the byte to send on the channel (rules R71, R116). -/
def execBcWritebyte (arg : Byte) (s : State) : Host.Outcome State Fault Refusal :=
  perform (.bcWritebyte arg) true (noResult (commandAlone .brCommand [Wire.writeByte, arg])) s

/-- `BC_READBYTE` 0x96 (rules R71, R120). -/
def execBcReadbyte (s : State) : Host.Outcome State Fault Refusal :=
  perform .bcReadbyte true (noResult (commandAlone .brCommand [Wire.readByte])) s

/-- `BC_TRIPLET` 0x78: a constant with no operation (rules R96, R122). -/
def execBcTriplet (_s : State) : Host.Outcome State Fault Refusal :=
  .refused (.noOperation "BC_TRIPLET")

end Sys2Proof.Machine
end

