-- ==== Sys2Proof/Machine/WireChannel.lean ====
section
/-! DEFINITION. The rows of layer 2 (30_encoding.md rules R79, R80, R82): each is one byte sent on the
channel, that is the operand of one `BR_WRITEBYTE` (41_bridge.md rule R116), performed by itself (log entry
8). The four commands the spec gives no operation stop by name (rules R96, R153). -/

namespace Sys2Proof.Machine

/-- One byte on the channel by itself. -/
def sendAlone (i : Instr) (b : Byte) (s : State) : Host.Outcome State Fault Refusal :=
  perform i true (noResult (brWritebyte b)) s

/-- `RC_SEARCH` 0xF0: a constant with no operation (rules R96, R153). -/
def execRcSearch (_s : State) : Host.Outcome State Fault Refusal :=
  .refused (.noOperation "RC_SEARCH")

/-- `RC_READ` 0x33 (rules R79, R135). -/
def execRcRead (s : State) : Host.Outcome State Fault Refusal := sendAlone .rcRead Wire.romRead s

/-- `RC_MATCH` 0x55: a constant with no operation (rules R96, R153). -/
def execRcMatch (_s : State) : Host.Outcome State Fault Refusal :=
  .refused (.noOperation "RC_MATCH")

/-- `RC_SKIP` 0xCC (rules R79, R133). -/
def execRcSkip (s : State) : Host.Outcome State Fault Refusal := sendAlone .rcSkip Wire.romSkip s

/-- `RC_ALARMSEARCH` 0xEC: a constant with no operation (rules R96, R153). -/
def execRcAlarmsearch (_s : State) : Host.Outcome State Fault Refusal :=
  .refused (.noOperation "RC_ALARMSEARCH")

/-- `FC_CONVERT` 0x44 (rules R80, R143). -/
def execFcConvert (s : State) : Host.Outcome State Fault Refusal := sendAlone .fcConvert Wire.convert s

/-- `FC_WRITESP` 0x4E (rules R80, R138). -/
def execFcWritesp (s : State) : Host.Outcome State Fault Refusal := sendAlone .fcWritesp Wire.writeScratchpad s

/-- `FC_READSP` 0xBE (rules R80, R145). -/
def execFcReadsp (s : State) : Host.Outcome State Fault Refusal := sendAlone .fcReadsp Wire.readScratchpad s

/-- `FC_COPYSP` 0x48 (rules R80, R139). -/
def execFcCopysp (s : State) : Host.Outcome State Fault Refusal := sendAlone .fcCopysp Wire.copyScratchpad s

/-- `FC_RECALL` 0xB8: a constant with no operation (rules R96, R153). -/
def execFcRecall (_s : State) : Host.Outcome State Fault Refusal :=
  .refused (.noOperation "FC_RECALL")

/-- `FC_READPOWER` 0xB4 (rules R80, R137). -/
def execFcReadpower (s : State) : Host.Outcome State Fault Refusal := sendAlone .fcReadpower Wire.readPowerSupply s

/-- `RESBYTE_9` 0x1F (rules R82, R138). -/
def execResbyte9 (s : State) : Host.Outcome State Fault Refusal := sendAlone .resbyte9 (resByte 0) s

/-- `RESBYTE_10` 0x3F (rules R82, R138). -/
def execResbyte10 (s : State) : Host.Outcome State Fault Refusal := sendAlone .resbyte10 (resByte 1) s

/-- `RESBYTE_11` 0x5F (rules R82, R138). -/
def execResbyte11 (s : State) : Host.Outcome State Fault Refusal := sendAlone .resbyte11 (resByte 2) s

/-- `RESBYTE_12` 0x7F (rules R82, R138). -/
def execResbyte12 (s : State) : Host.Outcome State Fault Refusal := sendAlone .resbyte12 (resByte 3) s

end Sys2Proof.Machine
end

