-- ==== Sys2Proof/Machine/Dispatch.lean ====
section
/-! DEFINITION. One arm per row of the opcode table: the meaning of each instruction. -/

namespace Sys2Proof.Machine

def exec (i : Instr) (s : State) : Host.Outcome State Fault Refusal :=
  match i with
  | .checksum bytes offset length => Sys2Proof.Machine.execChecksum bytes offset length s
  | .brReset => Sys2Proof.Machine.execBrReset s
  | .brWritecfg bits => Sys2Proof.Machine.execBrWritecfg bits s
  | .brResetch => Sys2Proof.Machine.execBrResetch s
  | .brWritebyte b => Sys2Proof.Machine.execBrWritebyte b s
  | .brReadbyte => Sys2Proof.Machine.execBrReadbyte s
  | .brReadbit => Sys2Proof.Machine.execBrReadbit s
  | .snInit res => Sys2Proof.Machine.execSnInit res s
  | .snMeasure => Sys2Proof.Machine.execSnMeasure s
  | .snDecode lsb msb res => Sys2Proof.Machine.execSnDecode lsb msb res s
  | .flRecord sample => Sys2Proof.Machine.execFlRecord sample s
  | .flAverage => Sys2Proof.Machine.execFlAverage s
  | .flReset => Sys2Proof.Machine.execFlReset s
  | .ctEval avg => Sys2Proof.Machine.execCtEval avg s
  | .ctSettarget t => Sys2Proof.Machine.execCtSettarget t s
  | .ctSethyst h => Sys2Proof.Machine.execCtSethyst h s
  | .ctSetunit u => Sys2Proof.Machine.execCtSetunit u s
  | .ctModeNext => Sys2Proof.Machine.execCtModeNext s
  | .ctModePrev => Sys2Proof.Machine.execCtModePrev s
  | .orchTick => Sys2Proof.Machine.execOrchTick s
  | .orchStart => Sys2Proof.Machine.execOrchStart s
  | .bcDevreset => Sys2Proof.Machine.execBcDevreset s
  | .bcSetptr arg => Sys2Proof.Machine.execBcSetptr arg s
  | .bcWritecfg bits => Sys2Proof.Machine.execBcWritecfg bits s
  | .bcChreset => Sys2Proof.Machine.execBcChreset s
  | .bcSinglebit arg => Sys2Proof.Machine.execBcSinglebit arg s
  | .bcWritebyte arg => Sys2Proof.Machine.execBcWritebyte arg s
  | .bcReadbyte => Sys2Proof.Machine.execBcReadbyte s
  | .bcTriplet => Sys2Proof.Machine.execBcTriplet s
  | .rcSearch => Sys2Proof.Machine.execRcSearch s
  | .rcRead => Sys2Proof.Machine.execRcRead s
  | .rcMatch => Sys2Proof.Machine.execRcMatch s
  | .rcSkip => Sys2Proof.Machine.execRcSkip s
  | .rcAlarmsearch => Sys2Proof.Machine.execRcAlarmsearch s
  | .fcConvert => Sys2Proof.Machine.execFcConvert s
  | .fcWritesp => Sys2Proof.Machine.execFcWritesp s
  | .fcReadsp => Sys2Proof.Machine.execFcReadsp s
  | .fcCopysp => Sys2Proof.Machine.execFcCopysp s
  | .fcRecall => Sys2Proof.Machine.execFcRecall s
  | .fcReadpower => Sys2Proof.Machine.execFcReadpower s
  | .resbyte9 => Sys2Proof.Machine.execResbyte9 s
  | .resbyte10 => Sys2Proof.Machine.execResbyte10 s
  | .resbyte11 => Sys2Proof.Machine.execResbyte11 s
  | .resbyte12 => Sys2Proof.Machine.execResbyte12 s

end Sys2Proof.Machine
end

