-- ==== Sys2Proof/Machine/Sequencer.lean ====
section
/-! DEFINITION. What starts an operation and what resumes it: requests, ticks, resets and answers in the
order in which they arrive (20_memory.md rules R60, R64; 60_exceptions.md rules R218, R230, R231). -/

namespace Sys2Proof.Machine

/-- Serve one request on a free block. A host word that is no operation, or an operation the host may not
issue, is refused with `IllegalOperation` (rules R95, R235). A word of the block's own sequencer runs. -/
def serve (r : Request) (s : State) : Host.Outcome State Fault Refusal :=
  match r with
  | .host code args =>
    match decode (.op code args) with
    | .error _ => turnAway .illegalOperation s
    | .ok i => if i.hostMayIssue then exec i s else turnAway .illegalOperation s
  | .invoke w =>
    match decode w with
    | .error e => .refused (.notAWord e)
    | .ok i => exec i s

/-- Go on with the operation in progress, its answers so far followed by the list `outside`: the operation
is run again from the registers it started from, which is the same run continued (rule R69; law
`perform_resume` in Laws). -/
def resume (p : InProgress) (outside : List Stimulus) (s : State) : Host.Outcome State Fault Refusal :=
  exec p.instr { s with
    block := p.start, busy := none, outside := p.heard.map .answer ++ outside }

/-- One step while an operation is in progress: an answer goes to it, a tick is lost (rule R231), a request
is held until the block is free (rule R60), a reset abandons it (rule R241). With nothing arriving, the
environment answers freely (rule R53). -/
def stepBusy (p : InProgress) (s : State) : Host.Outcome State Fault Refusal :=
  match s.outside with
  | [] => resume p [.answer (Config.freeAnswer s.drawn)] { s with drawn := s.drawn + 1 }
  | .answer a :: rest => resume p (.answer a :: rest) s
  | .tick :: rest => .next { s with outside := rest }
  | .request r :: rest => .next { s with outside := rest, waiting := s.waiting ++ [r] }
  | .reset :: rest => .next { s with outside := rest }.hardReset

/-- One step of a free block with the requests `r :: held` waiting: the first is served, unless a reset
arrives, or a tick arrives and goes first (rule R218: either order). -/
def stepHeld (r : Request) (held : List Request) (s : State) : Host.Outcome State Fault Refusal :=
  match s.outside with
  | .reset :: rest => .next { s with outside := rest }.hardReset
  | .tick :: rest =>
    if Config.tickFirst s.drawn then execOrchTick { s with outside := rest, drawn := s.drawn + 1 }
    else serve r { s with waiting := held, drawn := s.drawn + 1 }
  | _ => serve r { s with waiting := held }

/-- One step of a free block with nothing held: what arrives is accepted. An answer nobody asked for has no
effect, and with nothing arriving the block does nothing (rule R243). -/
def stepFree (s : State) : Host.Outcome State Fault Refusal :=
  match s.outside with
  | [] => .next s
  | .answer _ :: rest => .next { s with outside := rest }
  | .tick :: rest => execOrchTick { s with outside := rest }
  | .request r :: rest => serve r { s with outside := rest }
  | .reset :: rest => .next { s with outside := rest }.hardReset

/-- One step of the machine. -/
def advance (s : State) : Host.Outcome State Fault Refusal :=
  match s.busy, s.waiting with
  | some p, _ => stepBusy p s
  | none, r :: held => stepHeld r held s
  | none, [] => stepFree s

/-- How a word is presented: through the host's port if the host may issue it, else by the block's own
sequencer. -/
def requestOf (w : Word) : Request :=
  match w with
  | .op code args =>
    match decode (.op code args) with
    | .ok i => if i.hostMayIssue then .host code args else .invoke w
    | .error _ => .invoke w
  | .bus _ => .invoke w
  | .channel _ => .invoke w

/-- The machine free, with this word arriving next. -/
def State.withWord (s : State) (w : Word) : State :=
  { s with busy := none, waiting := [], outside := .request (requestOf w) :: s.outside }

end Sys2Proof.Machine
end

