-- ==== Sys2Proof/Machine/HostPort.lean ====
section
/-! DEFINITION. What the host can read (10_state.md rule R45): a read has no side effect, is not served
while an operation is in progress (20_memory.md rule R60), and shows `none` for a field with no value. -/

namespace Sys2Proof.Machine

/-- The host-readable fields, in the order of rule R45; `sp` and the sequencers are not among them. -/
structure HostView where
  lastStatus : Option Byte
  cfgShadow : Option Nibble
  rom : Option (Vector Byte 8)
  resolution : Option ResCode
  parasitic : Option Bool
  initialized : Bool
  lastReading : Option Temp
  len : Nat
  sum : Temp
  average : Option Temp
  mode : Mode
  state : CtlState
  drive : Drive
  target : Temp
  hyst : Temp
  high : Temp
  low : Temp
  unit : TempUnit
  ticking : Bool
  error : Err
deriving DecidableEq, Repr

/-- The host's view of the registers. -/
def Block.hostView (b : Block) : HostView where
  lastStatus := b.lastStatus
  cfgShadow := b.cfgShadow
  rom := b.rom
  resolution := b.resolution
  parasitic := b.parasitic
  initialized := b.initialized
  lastReading := b.lastReading
  len := b.len
  sum := b.sum
  average := b.average
  mode := b.mode
  state := b.state
  drive := b.drive
  target := b.target
  hyst := b.hyst
  high := b.high
  low := b.low
  unit := b.unit
  ticking := b.ticking
  error := b.error

/-- A host read of the machine: none is served while an operation is in progress. -/
def State.hostRead (s : State) : Option HostView :=
  match s.busy with
  | some _ => none
  | none => some s.block.hostView

end Sys2Proof.Machine
end

