-- ==== Sys2Proof/Safety.lean ====
section
/-! DEFINITION. What holds of a sound machine (10_state.md rule R43), and the vocabulary in which claims
speak of a conversation between the block and its environment: the calls an operation makes, and the
exchanges that serve them. -/

namespace Sys2Proof.Machine

/-! ## Soundness -/

/-- The invariants of rule R43, on the registers, under the parameters `p`. -/
structure Block.Sound (p : Params) (b : Block) : Prop where
  len_eq : b.len = b.win.length
  len_le : b.win.length ≤ 16
  sum_eq : b.sum = b.win.sum
  high_eq : b.high = b.target + b.hyst
  low_eq : b.low = b.target - b.hyst
  hyst_nonneg : 0 ≤ b.hyst
  state_legal : b.state ≠ .reserved
  drive_legal : b.drive ≠ .reserved
  drive_no_error : b.drive ≠ .off → b.error = .noError
  error_is_safe : b.error ≠ .noError → b.ticking = false ∧ b.drive = .off
  error_is_fatal : b.error ≠ .noError → b.error.fatal = true
  ticking_initialized : b.ticking = true → b.initialized = true
  initialized_values : b.initialized = true → ∃ rom res par,
    b.rom = some rom ∧ b.resolution = some res ∧ b.parasitic = some par ∧ recordValid p rom.toList 7 = true

/-- Both sequencers idle (rule R21). -/
abbrev Block.Idle (b : Block) : Prop := b.snPhase = .idle ∧ b.brPhase = .brIdle

/-- The record of an operation in progress is true: it started from sound registers with both sequencers
idle, and giving it the answers it has had leads to where the machine is. -/
structure InProgress.Faithful (p : InProgress) (s : State) : Prop where
  start_sound : p.start.Sound s.params
  start_idle : p.start.Idle
  replay : exec p.instr { s with block := p.start, busy := none, outside := p.heard.map .answer }
    = .next { s with outside := [] }

/-- The invariant of the machine: sound registers; a legal reset band; no operation in progress means both
sequencers idle (rule R21); an operation in progress is recorded faithfully. -/
structure State.Sound (s : State) : Prop where
  block_sound : s.block.Sound s.params
  reset_hyst_nonneg : 0 ≤ s.params.resetHyst
  free_idle : s.busy = none → s.block.Idle
  busy_faithful : ∀ p, s.busy = some p → p.Faithful s

/-- Never both actuator outputs (rules R41, R176). -/
abbrev Block.OutputsExclusive (b : Block) : Prop := ¬ (b.heatOut = true ∧ b.coolOut = true)

/-- The machine has something to do or is free to take it: no operation in progress, nothing held. -/
abbrev State.Free (s : State) : Prop := s.busy = none ∧ s.waiting = []

/-! ## Calls and exchanges -/

/-- What the block asks of its environment, one bridge operation or delay at a time. -/
inductive Call where
  | deviceReset
  | channelReset
  | configure (bits : Nibble)
  | singleBit
  | send (b : Byte)
  | fetch
  | wait (ms : ℚ)
deriving DecidableEq, Repr

/-- A call with the answers that serve it: `ack` to each bus write, `busy` the statuses polled before the
status `last` that ends the poll, `st` the one status sampled, `d` the data byte. -/
inductive Exchange where
  | deviceReset (ack st : Byte)
  | channelReset (ack st : Byte)
  | configure (bits : Nibble) (ack : Byte)
  | singleBit (ack st : Byte)
  | send (b ack : Byte) (busy : List Byte) (last : Byte)
  | fetch (ack : Byte) (busy : List Byte) (last ack2 d : Byte)
  | wait (ms : ℚ) (a : Answer)
deriving DecidableEq, Repr

/-- The call an exchange serves. -/
def Exchange.call : Exchange → Call
  | .deviceReset _ _ => .deviceReset
  | .channelReset _ _ => .channelReset
  | .configure bits _ => .configure bits
  | .singleBit _ _ => .singleBit
  | .send b _ _ _ => .send b
  | .fetch _ _ _ _ _ => .fetch
  | .wait ms _ => .wait ms

/-- The answers of an exchange, in order. -/
def Exchange.answers : Exchange → List Answer
  | .deviceReset ack st => [.reply ack, .reply st]
  | .channelReset ack st => [.reply ack, .reply st]
  | .configure _ ack => [.reply ack]
  | .singleBit ack st => [.reply ack, .reply st]
  | .send _ ack busy last => .reply ack :: busy.map .reply ++ [.reply last]
  | .fetch ack busy last ack2 d => .reply ack :: busy.map .reply ++ [.reply last, .reply ack2, .reply d]
  | .wait _ a => [a]

/-- The answers to a bus write, to the status reads that say busy, and to what follows. -/
def heardAll (ack : Byte) (busy : List Byte) (rest : List Answer) : List Answer :=
  .reply ack :: busy.map .reply ++ rest

/-- The event of one status or data byte read. -/
def readEvent (b : Byte) : Event := .busRead (some b)

/-- The events of an exchange, in order (rules R113 to R120, R258). -/
def Exchange.events (p : Params) : Exchange → List Event
  | .deviceReset _ st => [.busWrite [0xF0] true, readEvent st]
  | .channelReset _ st => [.busWrite [0xB4] true, readEvent st]
  | .configure bits _ => [.busWrite [0xD2, cfgByte bits] true]
  | .singleBit _ st => [.busWrite [0x87, p.bitTiming] true, readEvent st]
  | .send b _ busy last => .busWrite [0xA5, b] true :: busy.map readEvent ++ [readEvent last]
  | .fetch _ busy last _ d => .busWrite [0x96] true :: busy.map readEvent
      ++ [readEvent last, .busWrite [0xE1, p.ptrData] true, readEvent d]
  | .wait ms _ => [.delay ms]

/-- The exchange goes well: the tested status bit is set, and a poll sees busy until its last status. -/
def Exchange.good : Exchange → Bool
  | .deviceReset _ st => stDevReset st
  | .channelReset _ st => stPresence st
  | .configure _ _ => true
  | .singleBit _ _ => true
  | .send _ _ busy last => busy.all stBusy && !stBusy last
  | .fetch _ busy last _ _ => busy.all stBusy && !stBusy last
  | .wait _ _ => true

/-- The last status byte an exchange leaves, if it reads one. -/
def Exchange.status : Exchange → Option Byte
  | .deviceReset _ st => some st
  | .channelReset _ st => some st
  | .configure _ _ => none
  | .singleBit _ st => some st
  | .send _ _ _ last => some last
  | .fetch _ _ last _ _ => some last
  | .wait _ _ => none

/-- The data byte an exchange fetches. -/
def Exchange.data : Exchange → Option Byte
  | .fetch _ _ _ _ d => some d
  | .deviceReset _ _ | .channelReset _ _ | .configure _ _ | .singleBit _ _ | .send _ _ _ _ | .wait _ _ => none

/-- The single bit an exchange reads. -/
def Exchange.bit : Exchange → Option Bool
  | .singleBit _ st => some (stSingleBit st)
  | .deviceReset _ _ | .channelReset _ _ | .configure _ _ | .send _ _ _ _ | .fetch _ _ _ _ _ | .wait _ _ => none

/-- The configuration an exchange writes. -/
def Exchange.config : Exchange → Option Nibble
  | .configure bits _ => some bits
  | .deviceReset _ _ | .channelReset _ _ | .singleBit _ _ | .send _ _ _ _ | .fetch _ _ _ _ _ | .wait _ _ => none

/-- A value that the later of two sources overrides. -/
def laterOf {α : Type} (before : Option α) (after : Option α) : Option α := after.or before

/-- The registers after a conversation that went well and left both sequencers as it should: the statuses
and configurations it left last, and its events. -/
def Block.conversed (p : Params) (b : Block) (xs : List Exchange) : Block := { b with
  lastStatus := laterOf b.lastStatus (xs.filterMap Exchange.status).getLast?
  cfgShadow := laterOf b.cfgShadow (xs.filterMap Exchange.config).getLast?
  history := b.history ++ xs.flatMap (Exchange.events p) }

/-- The outside world of state `s` begins with the answers of the conversation `xs`, then `later`. -/
abbrev State.Hears (s : State) (xs : List Exchange) (later : List Stimulus) : Prop :=
  s.outside = (xs.flatMap Exchange.answers).map .answer ++ later

/-- The conversation `xs` serves exactly the calls `cs`, and every exchange goes well. -/
abbrev Serves (xs : List Exchange) (cs : List Call) : Prop :=
  xs.map Exchange.call = cs ∧ ∀ x ∈ xs, x.good = true

/-! ## What an operation comes to -/

/-- State `s` after an operation that returned: registers `b`, the rest of the outside world, value `v`. -/
def State.returned (s : State) (b : Block) (later : List Stimulus) (v : Option Value) : State :=
  { s with block := b, busy := none, outside := later, result := some ⟨.noError, v⟩ }

/-- State `s` after an operation that raised the fatal error `e` at registers `b` (rules R212, R222): the
safe state of `b` with both sequencers idle, the code handed back. -/
def State.failed (s : State) (b : Block) (later : List Stimulus) (e : Err) : State :=
  { s with block := b.idlePhases.safeState e, busy := none, outside := later, result := some ⟨e, none⟩ }

/-- `b` with the registers that a bus transaction may write, and the history, taken from `b'`: every other
register is as in `b`. -/
def Block.withBusOf (b b' : Block) : Block := { b with
  snPhase := b'.snPhase, brPhase := b'.brPhase, lastStatus := b'.lastStatus, cfgShadow := b'.cfgShadow,
  sp := b'.sp, history := b'.history }

/-! ## The calls of the sensor operations, from the pseudocode of 42_sensor.md -/

/-- `ReadRom` (rule R135). -/
def readRomCalls : List Call := [.channelReset, .send 0x33] ++ List.replicate 8 .fetch

/-- `ProbePower` (rule R137). -/
def probePowerCalls : List Call := [.channelReset, .send 0xCC, .send 0xB4, .singleBit]

/-- `WriteResolution` (rule R138). -/
def writeResolutionCalls (res : ResCode) : List Call :=
  [.channelReset, .send 0xCC, .send 0x4E, .send 0x00, .send 0x00, .send (resByte res)]

/-- The configuration write of a parasitically powered sensor. -/
def strongPullupCalls (p : Params) (parasitic : Bool) : List Call :=
  if parasitic then [.configure p.cfgStrong] else []

/-- `CopyToEeprom` (rule R139). -/
def copyToEepromCalls (p : Params) (parasitic : Bool) : List Call :=
  [.channelReset, .send 0xCC] ++ strongPullupCalls p parasitic ++ [.send 0x48]
    ++ if parasitic then [.wait p.copySettleMs] else []

/-- `SN_INIT` (rule R131). -/
def snInitCalls (p : Params) (res : ResCode) (parasitic : Bool) : List Call :=
  [.deviceReset] ++ readRomCalls ++ probePowerCalls ++ writeResolutionCalls res
    ++ copyToEepromCalls p parasitic

/-- `TriggerConversion` (rule R143) and the conversion wait (rule R144). -/
def triggerCalls (p : Params) (parasitic : Bool) (res : ResCode) : List Call :=
  [.channelReset, .send 0xCC] ++ strongPullupCalls p parasitic ++ [.send 0x44, .wait (tConvMs res)]

/-- `ReadScratchpad` (rule R145). -/
def readScratchpadCalls : List Call :=
  [.channelReset, .send 0xCC, .send 0xBE] ++ List.replicate 9 .fetch

/-! ## What the block may write to the bus -/

/-- The complete set of byte lists the block passes to `BusWrite` (rule R78). -/
def listedWrites (p : Params) : List (List Byte) :=
  [[0xF0], [0xD2, cfgByte p.cfgStrong], [0xB4], [0x87, p.bitTiming], [0xA5, 0x33], [0xA5, 0xCC], [0xA5, 0xB4],
    [0xA5, 0x4E], [0xA5, 0x00], [0xA5, 0x1F], [0xA5, 0x3F], [0xA5, 0x5F], [0xA5, 0x7F], [0xA5, 0x48], [0xA5, 0x44],
    [0xA5, 0xBE], [0x96], [0xE1, p.ptrData]]

/-- An event that is no bus write outside rule R78's set. -/
def Event.listed (p : Params) : Event → Bool
  | .busWrite bytes _ => (listedWrites p).contains bytes
  | .busRead _ | .delay _ | .drive _ | .notify _ => true

end Sys2Proof.Machine
end

