-- ==== Sys2Proof/Certificates/Slice0/Obligations.lean ====
section
/-! DEFINITION. The statements for the provers. Each docstring names the rules of spec/ it formalises; where a
clause is the model's own choice it names the log entry. `later` is whatever the outside world does after the
answers an operation consumes. -/

open Sys2Proof Sys2Proof.Machine

/-! ## Encodings -/

/-- Every well-formed operation is read back from its word, whatever its operands (rules R70, R71, R79, R80,
R82, R89, R92, R93; the temperature line is log entry 6). -/
def Obligations.DecodeReadsBackEveryEncoding : Prop :=
  ∀ i : Instr, i.WellFormed → decode (encode i) = .ok i

/-- Each word has one meaning: a bus write or channel byte is the one word of what it decodes to, and an
operation code decodes to operations of that code only (rules R70, R71, R79, R80, R82, R92). -/
def Obligations.EachWordHasOneMeaning : Prop :=
  ∀ (w : Word) (i : Instr), decode w = .ok i →
    match w with
    | .op code _ => ∃ args, encode i = .op code args
    | .bus bytes => encode i = .bus bytes
    | .channel b => encode i = .channel b

/-- Words written out from the tables decode to the instructions they stand for (rules R71, R79, R80, R82,
R92). -/
def Obligations.WordsOfTheTablesDecode : Prop :=
  decode (.op 0x13 { Operands.zero with b := 0xCC }) = .ok (.brWritebyte 0xCC)
  ∧ decode (.op 0x20 { Operands.zero with res := 0b11 }) = .ok (.snInit 0b11)
  ∧ decode (.op 0x43 { Operands.zero with unit := 1 }) = .ok (.ctSetunit .fahrenheit)
  ∧ decode (.op 0x51 Operands.zero) = .ok .orchStart
  ∧ decode (.bus [0xF0]) = .ok .bcDevreset
  ∧ decode (.bus [0xA5, 0x44]) = .ok (.bcWritebyte 0x44)
  ∧ decode (.channel 0xCC) = .ok .rcSkip
  ∧ decode (.channel 0xBE) = .ok .fcReadsp
  ∧ decode (.channel 0x7F) = .ok .resbyte12

/-- The configuration byte is nibble-doubled: `cfgbyte(bits)` is the formula of rule R74, the bytes whose nibbles are
complements are exactly the sixteen bytes it produces, and a write of any of the other 240 is no word. -/
def Obligations.ConfigurationByteIsNibbleDoubled : Prop :=
  (∀ bits : Nibble, cfgByte bits = ((~~~bits).setWidth 8 <<< 4) ||| bits.setWidth 8)
  ∧ (∀ c : Byte, (∃ bits, c = cfgByte bits) ↔ (c >>> 4) ^^^ (c &&& 0x0F#8) = 0x0F#8)
  ∧ (∀ bits : Nibble, decode (.bus [0xD2, cfgByte bits]) = .ok (.bcWritecfg bits))
  ∧ (∀ c : Byte, (∀ bits, c ≠ cfgByte bits) → decode (.bus [0xD2, c]) = .error (.notNibbleDoubled c))

/-- Everything that depends on the resolution (rules R82, R84, R85): the configuration byte, the decode
shift, the scale factor, the conversion wait in milliseconds. -/
def Obligations.ResolutionTable : Prop :=
  (resByte 0b00 = 0x1F ∧ decodeShift 0b00 = 3 ∧ decodeScale 0b00 = 1 / 2 ∧ tConvMs 0b00 = 375 / 4)
  ∧ (resByte 0b01 = 0x3F ∧ decodeShift 0b01 = 2 ∧ decodeScale 0b01 = 1 / 4 ∧ tConvMs 0b01 = 375 / 2)
  ∧ (resByte 0b10 = 0x5F ∧ decodeShift 0b10 = 1 ∧ decodeScale 0b10 = 1 / 8 ∧ tConvMs 0b10 = 375)
  ∧ (resByte 0b11 = 0x7F ∧ decodeShift 0b11 = 0 ∧ decodeScale 0b11 = 1 / 16 ∧ tConvMs 0b11 = 750)

/-! ## The step -/

/-- A STEP RUNS THE DECODED INSTRUCTION. On a free machine the step is the meaning of the instruction, on the state
with the word taken: of a word of the block's own sequencer (log entry 4); of one of the nine operation codes the
host may issue, at its port (rules R91, R92; 0x31, a read, is log entry 24); of `ORCH_TICK` for an accepted tick
(rule R230). A step that starts nothing: with nothing arriving the state stays as it is (rule R243). The model's choices:
an answer nobody asked for is dropped (log entry 16), and a word of the sequencer that decodes to nothing is refused by
name (log entry 4). -/
def Obligations.StepRunsTheDecodedInstruction : Prop :=
  ∀ (s : State) (later : List Stimulus), s.Free →
    (∀ w i, s.outside = .request (.invoke w) :: later → decode w = .ok i →
      step s = exec i { s with outside := later })
    ∧ (∀ code args i, s.outside = .request (.host code args) :: later → decode (.op code args) = .ok i →
      code ∈ [0x01#8, 0x20#8, 0x31#8, 0x41#8, 0x42#8, 0x43#8, 0x44#8, 0x45#8, 0x51#8] →
      step s = exec i { s with outside := later })
    ∧ (s.outside = .tick :: later → step s = exec .orchTick { s with outside := later })
    ∧ (s.outside = [] → step s = .next s)
    ∧ (∀ a, s.outside = .answer a :: later → step s = .next { s with outside := later })
    ∧ (∀ w e, s.outside = .request (.invoke w) :: later → decode w = .error e → step s = .refused (.notAWord e))

/-- The host's port refuses (rule R95): a code outside the table or marked internal, `SN_INIT` while ticking,
`ORCH_START` before initialisation. A refused operation changes no register, performs no bus transaction
and hands back `IllegalOperation`. What a host word decodes to is an operation the host may issue exactly when its
code is one of the nine of rule R92's table, the read 0x31 among them (log entry 24). -/
def Obligations.HostPortRefusesWhatTheHostMayNotDo : Prop :=
  (∀ (s : State) (code : Byte) (args : Operands) (later : List Stimulus),
    s.Free → s.outside = .request (.host code args) :: later →
    (code ∉ [0x01#8, 0x20#8, 0x31#8, 0x41#8, 0x42#8, 0x43#8, 0x44#8, 0x45#8, 0x51#8]
      ∨ (code = 0x20#8 ∧ s.block.ticking = true) ∨ (code = 0x51#8 ∧ s.block.initialized = false)) →
    step s = .next { s with outside := later, result := some ⟨.illegalOperation, none⟩ })
  ∧ (∀ (code : Byte) (args : Operands) (i : Instr), decode (.op code args) = .ok i →
    (i.hostMayIssue = true ↔ code ∈ [0x01#8, 0x20#8, 0x31#8, 0x41#8, 0x42#8, 0x43#8, 0x44#8, 0x45#8, 0x51#8]))

/-- While an operation is in progress a tick is lost, neither latched nor queued (rule R231), and a request is
held and changes nothing else (rule R60 says that it waits). That any number of requests are held, in order of
arrival, is the model's choice (log entry 29). An answer goes to the operation, which goes on from the registers and
the answers it began with (log entry 12). With nothing listed the environment answers freely (rule R53): the step is the
one with the free answer listed, and the counter of free values advances (log entry 11). -/
def Obligations.BusyBlockLosesTicksAndHoldsRequests : Prop :=
  ∀ (s : State) (p : InProgress) (later : List Stimulus), s.busy = some p →
    (s.outside = .tick :: later → step s = .next { s with outside := later })
    ∧ (∀ r, s.outside = .request r :: later →
        step s = .next { s with outside := later, waiting := s.waiting ++ [r] })
    ∧ (∀ a, s.outside = .answer a :: later →
        step s = exec p.instr { s with
          block := p.start, busy := none, outside := p.heard.map .answer ++ .answer a :: later })
    ∧ (s.outside = [] →
        step s = step { s with outside := [.answer (Config.freeAnswer s.drawn)], drawn := s.drawn + 1 })

/-- When the block is free a held request is served before anything that arrives later, but for a reset, and for a
tick that arrives at that instant: then either may go first (rules R60, R218). `run` is what serving the
request comes to: a host operation the host may issue, its meaning; any other host operation, its refusal
(rule R95); a word of the block's own sequencer, its meaning (log entry 4). The model's choices: the first of several
held goes first (log entry 29); which of request and tick goes first is a free value (log entry 10). -/
def Obligations.HeldRequestIsServedOnceFree : Prop :=
  ∀ (s : State) (r : Request) (held : List Request) (run : State → Host.Outcome State Fault Refusal),
    s.busy = none → s.waiting = r :: held →
    ((∃ code args i, r = .host code args ∧ decode (.op code args) = .ok i ∧ i.hostMayIssue = true ∧ run = exec i)
      ∨ (∃ code args, r = .host code args ∧ (∀ i, decode (.op code args) = .ok i → i.hostMayIssue = false)
          ∧ run = fun u => .next { u with result := some ⟨.illegalOperation, none⟩ })
      ∨ (∃ w i, r = .invoke w ∧ decode w = .ok i ∧ run = exec i)) →
    ((∀ later, s.outside ≠ .tick :: later ∧ s.outside ≠ .reset :: later) →
        step s = run { s with waiting := held })
    ∧ (∀ later, s.outside = .tick :: later →
        step s = exec .orchTick { s with outside := later, drawn := s.drawn + 1 }
        ∨ step s = run { s with waiting := held, drawn := s.drawn + 1 })

/-- Reset puts every field in the state of rule R44 at once, in any state of the machine, an operation in
progress or not, which it abandons; it performs no bus transaction and sends no notification (rules R240,
R241). That the event history (rule R69) goes on over a reset, and gains the change of `drive` if there is one, is
the model's choice (log entry 9), and so is that a delay (log entry 13) or a bus call (log entry 32) that the reset
cuts off leaves no event in it. -/
def Obligations.ResetPutsEveryFieldAtItsResetValue : Prop :=
  ∀ (s : State) (later : List Stimulus), s.outside = .reset :: later →
    ∃ t, step s = .next t ∧ t.busy = none ∧ t.outside = later ∧ t.params = s.params
      ∧ t.block.heatOut = false ∧ t.block.coolOut = false
      ∧ t.block = {
          snPhase := .idle, brPhase := .brIdle, lastStatus := none, cfgShadow := none, rom := none, sp := none,
          resolution := none, parasitic := none, initialized := false, lastReading := none,
          win := [], len := 0, sum := 0, mode := .off, state := .idle, drive := .off,
          target := s.params.resetTarget, hyst := s.params.resetHyst,
          high := s.params.resetTarget + s.params.resetHyst, low := s.params.resetTarget - s.params.resetHyst,
          unit := s.params.resetUnit, ticking := false, error := .noError,
          history := s.block.history ++ if s.block.drive = .off then [] else [.drive .off] }

/-! ## Invariants -/

/-- The machine is sound right after reset, for every legal choice of the parameters (rules R43, R44). -/
def Obligations.ResetStateIsSound : Prop :=
  (∀ p : Params, p.Legal → (State.resetWith p).Sound) ∧ State.reset.Sound

/-- EVERY STEP KEEPS THE INVARIANT of rule R43: the window's length and sum, the thresholds, the legal codes,
`drive` off in the safe state, ticking only when initialised, the values an initialised block has; with it
the sequencers idle when no operation is in progress (rule R21), and the record of an operation in
progress true. From every sound state, not only from runs. -/
def Obligations.EveryStepKeepsSoundness : Prop :=
  ∀ s t : State, s.Sound → step s = .next t → t.Sound

/-- Never both actuator outputs, in every state, reachable or not; each output follows `drive`, and the
reserved code gives neither (rules R41, R88, R176). For the legal codes bit 0 of `DRIVE` is `heat_out` and bit 1 is
`cool_out`, and `DriveOf` is idle to off, heating to heat, cooling to cool, the identity on codes (rules R87, R88,
R175). -/
def Obligations.OutputsAreNeverBothOn : Prop :=
  (∀ b : Block, b.OutputsExclusive
    ∧ (b.heatOut = true ↔ b.drive = .heat) ∧ (b.coolOut = true ↔ b.drive = .cool)
    ∧ (b.drive = .reserved → b.heatOut = false ∧ b.coolOut = false)
    ∧ (b.drive ≠ .reserved → b.heatOut = b.drive.code.getLsbD 0 ∧ b.coolOut = b.drive.code.getLsbD 1))
  ∧ (driveOf .idle = .off ∧ driveOf .heating = .heat ∧ driveOf .cooling = .cool)
  ∧ (Drive.code .off = 0b00 ∧ Drive.code .heat = 0b01 ∧ Drive.code .cool = 0b10 ∧ Drive.code .reserved = 0b11)
  ∧ (CtlState.code .idle = 0b00 ∧ CtlState.code .heating = 0b01 ∧ CtlState.code .cooling = 0b10
    ∧ CtlState.code .reserved = 0b11)

/-- Nothing that has been recorded is undone: from every sound state a step only adds to the event history,
also when it resumes an operation in progress (rules R64, R69, R219). For a step that is a reset, that the history
survives it is the model's choice (log entry 9). -/
def Obligations.EveryStepOnlyExtendsTheHistory : Prop :=
  ∀ s t : State, s.Sound → step s = .next t → s.block.history <+: t.block.history

/-- An operation whose answers arrive in two parts ends as if they had all been there: the step that resumes
it gives what the operation gives on both parts together (rules R64, R69). -/
def Obligations.ResumingEqualsRunningAtOnce : Prop :=
  ∀ (i : Instr) (s t : State) (first : List Answer) (a : Answer) (more : List Answer) (p : InProgress),
    s.busy = none → s.outside = first.map .answer → exec i s = .next t → t.busy = some p →
    step { t with outside := (a :: more).map .answer }
      = exec i { s with outside := (first ++ a :: more).map .answer }

/-! ## Checksum Engine -/

/-- `CHECKSUM` (rules R101, R104): with an absent list, a length of 0 or a range past the end (no wrap) it
hands back `ChecksumInputError`; otherwise the accumulator over the selected bytes in increasing index, driven
by the table the parameters name. No register changes. -/
def Obligations.ChecksumOfTheSelectedBytes : Prop :=
  ∀ (bytes : Option (List Byte)) (offset length : Byte) (s : State),
    exec (.checksum bytes offset length) s = .next { s with
      busy := none
      result := some (match bytes with
        | none => ⟨.checksumInputError, none⟩
        | some l =>
          if length.toNat = 0 ∨ offset.toNat + length.toNat > l.length then ⟨.checksumInputError, none⟩
          else ⟨.noError, some (.byte (((l.drop offset.toNat).take length.toNat).foldl
            (fun acc b => s.params.crcTable[(acc ^^^ b).toNat]) s.params.crcInit))⟩) }

/-- The table of rule R102: every entry is eight steps of the recurrence, and every byte value occurs once. -/
def Obligations.ChecksumTableIsTheRecurrence : Prop :=
  (∀ i : Byte, crcLookup Params.suggested i = (List.range 8).foldl
      (fun c _ => if c.getLsbD 0 then (c >>> 1) ^^^ 0x8C else c >>> 1) i)
  ∧ crcRows.length = 256 ∧ Params.suggested.crcTable.toList = crcRows ∧ crcRows.Nodup

/-- Two inputs that differ in exactly one byte have different checksums (rule R106 b), from any start of the
accumulator and with any table in which no byte value occurs twice. -/
def Obligations.ChecksumSeesEveryOneByteChange : Prop :=
  ∀ (p : Params) (acc : Byte) (front back : List Byte) (b b' : Byte), p.crcTable.toList.Nodup → b ≠ b' →
    crcFold p acc (front ++ b :: back) ≠ crcFold p acc (front ++ b' :: back)

/-- With the table of rule R102 the bit-serial form gives the same result as the table form for every input
(rule R107). -/
def Obligations.BitSerialChecksumAgrees : Prop :=
  ∀ (p : Params) (acc : Byte) (bytes : List Byte), p.crcTable = maximTable →
    crcFold p acc bytes = bytes.foldl serialByte acc

/-- With the table of rule R102 and `CRC_INIT = 0` a record is valid exactly when the checksum over all of it is 0
(rule R105); a leading zero byte does not affect the checksum, and a record of zero bytes is valid (rules R106 c,
R256). -/
def Obligations.ValidRecordsChecksumToZero : Prop :=
  ∀ p : Params, p.crcTable = maximTable → p.crcInit = 0x00 →
  (∀ (l : List Byte) (k : Nat), 0 < k → l.length = k + 1 →
    (recordValid p l k = true ↔ checksum p (some l) 0 (k + 1) = .ok 0x00))
  ∧ (∀ l : List Byte, crcFold p p.crcInit (0x00 :: l) = crcFold p p.crcInit l)
  ∧ (∀ k : Nat, 0 < k → checksum p (some (List.replicate k 0x00)) 0 k = .ok 0x00
    ∧ recordValid p (List.replicate (k + 1) 0x00) k = true)

/-! ## Bridge Protocol Driver -/

/-- `BR_RESET` and `BR_RESETCH` (rules R113, R115, R111): the write `[0xF0]` (`[0xB4]`), one status read, no busy
wait; they return when bit 4 (bit 1) of the status is set and raise `BridgeNotPresent` (`NoChannelPresence`)
when it is clear, whatever the other bits are. A timeout of either call raises `TransportTimeout`, with
nothing after it. That an error of the operation performed by itself ends in the safe state with its code handed
back (`State.failed`) is the model's reading of rule R212 (log entry 15). -/
def Obligations.ResetCommandsWhole : Prop :=
  (∀ args, decode (.op 0x10 args) = .ok .brReset ∧ decode (.op 0x12 args) = .ok .brResetch)
  ∧ ∀ (s : State) (ack st : Byte) (later : List Stimulus) (i : Instr) (cmd : Byte) (bit : Nat) (e : Err)
    (w r : List Event),
    (i, cmd, bit, e) ∈ [(Instr.brReset, 0xF0#8, 4, Err.bridgeNotPresent), (.brResetch, 0xB4#8, 1, .noChannelPresence)] →
    w = [.busWrite [cmd] true] → r = [.busRead (some st)] →
    (s.outside = .answer (.reply ack) :: .answer (.reply st) :: later → st.getLsbD bit = true →
      exec i s = .next (s.returned
        { s.block with brPhase := .brIdle, lastStatus := some st, history := s.block.history ++ w ++ r } later none))
    ∧ (s.outside = .answer (.reply ack) :: .answer (.reply st) :: later → st.getLsbD bit = false →
      exec i s = .next (s.failed
        { s.block with lastStatus := some st, history := s.block.history ++ w ++ r } later e))
    ∧ (s.outside = .answer .timeout :: later →
      exec i s = .next (s.failed
        { s.block with history := s.block.history ++ [.busWrite [cmd] false] } later .transportTimeout))
    ∧ (s.outside = .answer (.reply ack) :: .answer .timeout :: later →
      exec i s = .next (s.failed
        { s.block with history := s.block.history ++ w ++ [.busRead none] } later .transportTimeout))

/-- `BR_WRITECFG` (rule R114): the nibble-doubled byte is written and `cfg_shadow` takes the bits; on a
timeout `cfg_shadow` is unchanged. No status is read. That a timeout of the operation performed by itself ends in the
safe state with its code handed back is the model's reading of rule R212 (log entry 15). -/
def Obligations.WriteConfigurationWhole : Prop :=
  (∀ args, decode (.op 0x11 args) = .ok (.brWritecfg args.bits))
  ∧ ∀ (s : State) (bits : Nibble) (ack : Byte) (later : List Stimulus) (c : Byte),
    c = ((~~~bits).setWidth 8 <<< 4) ||| bits.setWidth 8 →
    (s.outside = .answer (.reply ack) :: later →
      exec (.brWritecfg bits) s = .next (s.returned
        { s.block with brPhase := .brIdle, cfgShadow := some bits,
                       history := s.block.history ++ [.busWrite [0xD2, c] true] } later none))
    ∧ (s.outside = .answer .timeout :: later →
      exec (.brWritecfg bits) s = .next (s.failed
        { s.block with history := s.block.history ++ [.busWrite [0xD2, c] false] } later .transportTimeout))

/-- `BR_READBIT` (rule R118): the write `[0x87, BIT_TIMING]`, one status read, and the result is bit 5 of that
status; no busy wait. That a timeout of the operation performed by itself ends in the safe state with its code handed
back is the model's reading of rule R212 (log entry 15). -/
def Obligations.ReadBitWhole : Prop :=
  (∀ args, decode (.op 0x15 args) = .ok .brReadbit)
  ∧ ∀ (s : State) (ack st : Byte) (later : List Stimulus) (w : List Byte), w = [0x87, s.params.bitTiming] →
    (s.outside = .answer (.reply ack) :: .answer (.reply st) :: later →
      exec .brReadbit s = .next (s.returned
        { s.block with brPhase := .brIdle, lastStatus := some st,
                       history := s.block.history ++ [.busWrite w true, .busRead (some st)] }
        later (some (.bit (st.getLsbD 5)))))
    ∧ (s.outside = .answer .timeout :: later →
      exec .brReadbit s = .next (s.failed
        { s.block with history := s.block.history ++ [.busWrite w false] } later .transportTimeout))
    ∧ (s.outside = .answer (.reply ack) :: .answer .timeout :: later →
      exec .brReadbit s = .next (s.failed
        { s.block with history := s.block.history ++ [.busWrite w true, .busRead none] } later .transportTimeout))

/-- `BR_WRITEBYTE` and the busy-poll (rules R116, R117): the write `[0xA5, b]`, then status reads until one has
bit 0 clear, which is kept in `last_status`; no fetch follows. A timeout of the write or of any read ends it. That this
is the safe state with the code handed back, the operation being performed by itself, is the model's reading of rule
R212 (log entry 15). -/
def Obligations.WriteByteWhole : Prop :=
  (∀ args, decode (.op 0x13 args) = .ok (.brWritebyte args.b))
  ∧ ∀ (s : State) (b ack last : Byte) (busy : List Byte) (later : List Stimulus) (w : List Event),
    (∀ x ∈ busy, x.getLsbD 0 = true) → w = .busWrite [0xA5, b] true :: busy.map readEvent →
    (last.getLsbD 0 = false → s.outside = (heardAll ack busy [.reply last]).map .answer ++ later →
      exec (.brWritebyte b) s = .next (s.returned
        { s.block with brPhase := .brIdle, lastStatus := some last,
                       history := s.block.history ++ w ++ [.busRead (some last)] } later none))
    ∧ (s.outside = (heardAll ack busy [.timeout]).map .answer ++ later →
      exec (.brWritebyte b) s = .next (s.failed
        { s.block with lastStatus := laterOf s.block.lastStatus busy.getLast?,
                       history := s.block.history ++ w ++ [.busRead none] } later .transportTimeout))
    ∧ (s.outside = .answer .timeout :: later →
      exec (.brWritebyte b) s = .next (s.failed
        { s.block with history := s.block.history ++ [.busWrite [0xA5, b] false] } later .transportTimeout))

/-- `BR_READBYTE` (rule R120): the write `[0x96]`, the busy-poll, the pointer write `[0xE1, PTR_DATA]`, and the
fetch of one data byte, which is the result whatever its value and leaves `last_status` alone; a timeout of any of
the calls (the command write, a poll read, the pointer write, the fetch) ends it with no byte. That this is the safe
state with the code handed back, the operation being performed by itself, is the model's reading of rule R212 (log
entry 15). -/
def Obligations.ReadByteWhole : Prop :=
  (∀ args, decode (.op 0x14 args) = .ok .brReadbyte)
  ∧ ∀ (s : State) (ack last ack2 d : Byte) (busy : List Byte) (later : List Stimulus) (w : List Event) (ptr : List Byte),
    (∀ x ∈ busy, x.getLsbD 0 = true) → last.getLsbD 0 = false → ptr = [0xE1, s.params.ptrData] →
    w = .busWrite [0x96] true :: (busy ++ [last]).map readEvent →
    (s.outside = (heardAll ack busy [.reply last, .reply ack2, .reply d]).map .answer ++ later →
      exec .brReadbyte s = .next (s.returned
        { s.block with brPhase := .brIdle, lastStatus := some last,
                       history := s.block.history ++ w ++ [.busWrite ptr true, .busRead (some d)] }
        later (some (.byte d))))
    ∧ (s.outside = (heardAll ack busy [.reply last, .timeout]).map .answer ++ later →
      exec .brReadbyte s = .next (s.failed
        { s.block with lastStatus := some last, history := s.block.history ++ w ++ [.busWrite ptr false] }
        later .transportTimeout))
    ∧ (s.outside = (heardAll ack busy [.reply last, .reply ack2, .timeout]).map .answer ++ later →
      exec .brReadbyte s = .next (s.failed
        { s.block with lastStatus := some last,
                       history := s.block.history ++ w ++ [.busWrite ptr true, .busRead none] }
        later .transportTimeout))
    ∧ (s.outside = (heardAll ack busy [.timeout]).map .answer ++ later →
      exec .brReadbyte s = .next (s.failed
        { s.block with lastStatus := laterOf s.block.lastStatus busy.getLast?,
                       history := s.block.history ++ .busWrite [0x96] true :: busy.map readEvent ++ [.busRead none] }
        later .transportTimeout))
    ∧ (s.outside = .answer .timeout :: later →
      exec .brReadbyte s = .next (s.failed
        { s.block with history := s.block.history ++ [.busWrite [0x96] false] } later .transportTimeout))

/-- The busy-poll can hang (rules R117, R252), in `BR_WRITEBYTE` and in `BR_READBYTE`: after any number of busy
statuses the operation is still in progress, `drive` unchanged and no error raised. -/
def Obligations.BusyPollNeverEndsWhileBusy : Prop :=
  ∀ (s : State) (b ack : Byte) (busy : List Byte) (i : Instr) (bytes : List Byte),
    (i, bytes) ∈ [(Instr.brWritebyte b, [0xA5#8, b]), (.brReadbyte, [0x96])] →
    (∀ x ∈ busy, x.getLsbD 0 = true) → s.outside = (heardAll ack busy []).map .answer →
    exec i s = .next { s with
      block := { s.block with
        brPhase := .brPoll
        lastStatus := laterOf s.block.lastStatus busy.getLast?
        history := s.block.history ++ .busWrite bytes true :: busy.map readEvent }
      busy := some ⟨i, s.block, heardAll ack busy []⟩
      outside := [] }

/-- The bridge commands by themselves (rules R70, R71, R111; performing them alone is log entry 8): each is its one
bus write. Write-configuration alone, its byte nibble-doubled (rule R74), also leaves the low nibble of that byte in
`cfg_shadow` (rule R25). A timeout raises `TransportTimeout` and leaves `cfg_shadow` alone; that it ends in the safe
state with the code handed back is the model's reading of rule R212 (log entry 15). The read-pointer code is always
`PTR_DATA` and the timing byte always `BIT_TIMING` (rules R55, R71, R75, R76): that any other is turned away with
`IllegalOperation`, no register changed and nothing sent, is the model's choice (log entry 8). -/
def Obligations.BridgeCommandsAlone : Prop :=
  (∀ (s : State) (ack arg : Byte) (bits : Nibble) (later : List Stimulus) (i : Instr) (bytes : List Byte),
    (i, bytes) ∈ [(Instr.bcDevreset, [0xF0#8]), (.bcSetptr s.params.ptrData, [0xE1, s.params.ptrData]),
      (.bcWritecfg bits, [0xD2, cfgByte bits]), (.bcChreset, [0xB4]),
      (.bcSinglebit s.params.bitTiming, [0x87, s.params.bitTiming]), (.bcWritebyte arg, [0xA5, arg]),
      (.bcReadbyte, [0x96])] →
    (s.outside = .answer (.reply ack) :: later →
      exec i s = .next (s.returned
        { s.block with brPhase := .brIdle, history := s.block.history ++ [.busWrite bytes true],
                       cfgShadow := if i = .bcWritecfg bits then some bits else s.block.cfgShadow }
        later none))
    ∧ (s.outside = .answer .timeout :: later →
      exec i s = .next (s.failed
        { s.block with history := s.block.history ++ [.busWrite bytes false] } later .transportTimeout)))
  ∧ (∀ (s : State) (arg : Byte) (i : Instr),
    (i = .bcSetptr arg ∧ arg ≠ s.params.ptrData) ∨ (i = .bcSinglebit arg ∧ arg ≠ s.params.bitTiming) →
    exec i s = .next { s with busy := none, result := some ⟨.illegalOperation, none⟩ })

/-- The channel bytes by themselves (rules R79, R80, R82, R116; performing them alone is log entry 8): each is the
byte write of its value, however that comes out; served well, it leaves the write and the polls in the
history and the last status in `last_status`. -/
def Obligations.ChannelBytesAlone : Prop :=
  ∀ (s : State) (i : Instr) (b : Byte),
    (i, b) ∈ [(Instr.rcRead, 0x33#8), (.rcSkip, 0xCC), (.fcConvert, 0x44), (.fcWritesp, 0x4E), (.fcReadsp, 0xBE),
      (.fcCopysp, 0x48), (.fcReadpower, 0xB4), (.resbyte9, 0x1F), (.resbyte10, 0x3F), (.resbyte11, 0x5F),
      (.resbyte12, 0x7F)] →
    (∀ t, exec (.brWritebyte b) s = .next t →
      exec i s = .next { t with busy := t.busy.map (fun p => { p with instr := i }) })
    ∧ (∀ (ack last : Byte) (busy : List Byte) (later : List Stimulus),
      (∀ x ∈ busy, x.getLsbD 0 = true) → last.getLsbD 0 = false →
      s.outside = (heardAll ack busy [.reply last]).map .answer ++ later →
      exec i s = .next (s.returned
        { s.block with brPhase := .brIdle, lastStatus := some last,
                       history := s.block.history ++ .busWrite [0xA5, b] true :: busy.map readEvent ++ [readEvent last] }
        later none))

/-- The five constants that the spec gives no operation stop by name (rules R96, R122, R153). -/
def Obligations.ConstantsWithoutOperationStop : Prop :=
  ∀ s : State,
    exec .bcTriplet s = .refused (.noOperation "BC_TRIPLET")
    ∧ exec .rcSearch s = .refused (.noOperation "RC_SEARCH")
    ∧ exec .rcMatch s = .refused (.noOperation "RC_MATCH")
    ∧ exec .rcAlarmsearch s = .refused (.noOperation "RC_ALARMSEARCH")
    ∧ exec .fcRecall s = .refused (.noOperation "FC_RECALL")

/-! ## Sensor Protocol Driver -/

/-- `SN_INIT` succeeds (rules R131, R132, R135 to R140): on a conversation that serves exactly its calls, fetches a
valid ROM code and reads the single bit `!par`, it commits `rom`, `parasitic`, `resolution` and
`initialized` together, and changes nothing else but `last_status`, `cfg_shadow` and the history. -/
def Obligations.SensorInitialisationSucceeds : Prop :=
  ∀ (s : State) (res : ResCode) (par : Bool) (rom : Vector Byte 8) (xs : List Exchange) (later : List Stimulus),
    s.block.ticking = false → Serves xs (snInitCalls s.params res par) →
    xs.filterMap Exchange.data = rom.toList → xs.filterMap Exchange.bit = [!par] → recordValid s.params rom.toList 7 = true →
    s.Hears xs later →
    exec (.snInit res) s = .next (s.returned
      { s.block.conversed s.params xs with
          brPhase := .brIdle, rom := some rom, parasitic := some par, resolution := some res, initialized := true }
      later none)

/-- A ROM code with a wrong checksum (rule R136): `RomChecksumInvalid`, nothing re-read, the safe state. -/
def Obligations.InvalidRomEndsInitialisation : Prop :=
  ∀ (s : State) (res : ResCode) (rom : Vector Byte 8) (xs : List Exchange) (later : List Stimulus),
    s.block.ticking = false → Serves xs (.deviceReset :: readRomCalls) →
    xs.filterMap Exchange.data = rom.toList → recordValid s.params rom.toList 7 = false → s.Hears xs later →
    exec (.snInit res) s = .next (s.failed (s.block.conversed s.params xs) later .romChecksumInvalid)

/-- However `SN_INIT` ends, it has committed all or nothing (rules R140, R141, R221): it returns with
`initialized` set and `resolution` its operand, or it hands back one of the errors 1 to 4, in the safe
state, with everything but the bus registers as before. -/
def Obligations.SensorInitialisationCommitsAllOrNothing : Prop :=
  ∀ (s t : State) (res : ResCode), s.block.ticking = false → exec (.snInit res) s = .next t → t.busy = none →
    (t.result = some ⟨.noError, none⟩ ∧ t.block.initialized = true ∧ t.block.resolution = some res
      ∧ ∃ rom par, t.block.rom = some rom ∧ t.block.parasitic = some par ∧ recordValid s.params rom.toList 7 = true
        ∧ t.block = { s.block.withBusOf t.block with
            rom := some rom, parasitic := some par, resolution := some res, initialized := true })
    ∨ (∃ e ∈ [Err.transportTimeout, .bridgeNotPresent, .noChannelPresence, .romChecksumInvalid],
        t.result = some ⟨e, none⟩
        ∧ t.block = { s.block.withBusOf t.block with drive := .off, ticking := false, error := e })

/-- `SN_MEASURE` succeeds (rules R142 to R146, R148): the conversion is triggered and waited for once; every
scratchpad that fails its checksum is read again, `bad` of them, fewer than the limit; the first valid one
is decoded and is the result. `last_reading` is not written. -/
def Obligations.MeasurementSucceeds : Prop :=
  ∀ (s : State) (res : ResCode) (par : Bool) (xs : List Exchange) (bad : List (List Exchange × Vector Byte 9))
    (ys : List Exchange) (sp : Vector Byte 9) (later : List Stimulus) (all : List Exchange),
    s.block.parasitic = some par → s.block.resolution = some res → Serves xs (triggerCalls s.params par res) →
    (∀ y ∈ bad, Serves y.1 readScratchpadCalls ∧ y.1.filterMap Exchange.data = y.2.toList
      ∧ recordValid s.params y.2.toList 8 = false) →
    (∀ n, s.params.retryLimit = some n → bad.length < n) →
    Serves ys readScratchpadCalls → ys.filterMap Exchange.data = sp.toList → recordValid s.params sp.toList 8 = true →
    all = xs ++ bad.flatMap Prod.fst ++ ys → s.Hears all later →
    exec .snMeasure s = .next (s.returned
      { s.block.conversed s.params all with snPhase := .idle, brPhase := .brIdle, sp := some sp }
      later (some (.temp (decodeTemp s.params sp[0] sp[1] res))))

/-- The retry bound (rules R146, R147): when `RETRY_LIMIT` scratchpads have all failed their checksum,
`MeasurementFailed` is raised before a further read, and the safe state follows. That the code is handed back by a
measurement performed by itself is the model's reading of rule R212 (log entry 15). While the limit is not reached, and
so without a limit after any number of invalid scratchpads, the measurement, and a tick that performs it, is still in
progress, no error raised, `drive` and everything but the bus registers and `sp` as before (rule R253). -/
def Obligations.MeasurementFailsAtTheRetryLimit : Prop :=
  ∀ (s : State) (res : ResCode) (par : Bool) (xs : List Exchange) (bad : List (List Exchange × Vector Byte 9))
    (all : List Exchange),
    s.block.parasitic = some par → s.block.resolution = some res → Serves xs (triggerCalls s.params par res) →
    (∀ y ∈ bad, Serves y.1 readScratchpadCalls ∧ y.1.filterMap Exchange.data = y.2.toList
      ∧ recordValid s.params y.2.toList 8 = false) →
    all = xs ++ bad.flatMap Prod.fst →
    (∀ (sp : Vector Byte 9) (later : List Stimulus),
      s.params.retryLimit = some bad.length → (bad.map Prod.snd).getLast? = some sp → s.Hears all later →
      exec .snMeasure s = .next (s.failed { s.block.conversed s.params all with sp := some sp } later .measurementFailed))
    ∧ (∀ i : Instr, i = .snMeasure ∨ (i = .orchTick ∧ s.block.ticking = true) →
      (∀ n, s.params.retryLimit = some n → bad.length < n) → s.Hears all [] →
      exec i s = .next { s with
        block := { s.block.conversed s.params all with
          snPhase := .scratchpadRead
          brPhase := .brCommand
          sp := laterOf s.block.sp (bad.map Prod.snd).getLast? }
        busy := some ⟨i, s.block, all.flatMap Exchange.answers⟩
        outside := [] })

/-- The errors of `SN_MEASURE` (rule R149): when it ends, it hands back a temperature, or one of the errors 1, 3
and 5 in the safe state; it writes nothing but the bus registers and `sp`. That a measurement performed by itself
ends in the safe state with the code handed back is the model's reading of rule R212 (log entry 15). -/
def Obligations.MeasurementErrors : Prop :=
  ∀ s t : State, exec .snMeasure s = .next t → t.busy = none →
    (t.block = s.block.withBusOf t.block ∧ ∃ v, t.result = some ⟨.noError, some (.temp v)⟩)
    ∨ (∃ e ∈ [Err.transportTimeout, .noChannelPresence, .measurementFailed], t.result = some ⟨e, none⟩
        ∧ t.block = { s.block.withBusOf t.block with drive := .off, ticking := false, error := e })

/-- A measurement needs the values an initialised sensor has (rule R142, precondition): where `parasitic` holds no value
it stops there with a fault, after the skip-ROM byte; where `resolution` holds none, after the conversion
command. That reading such a register is a fault is what 10_state.md says of "no value" at its head (log entry 2). -/
def Obligations.MeasurementWithoutValuesStops : Prop :=
  ∀ (s : State) (xs : List Exchange) (later : List Stimulus), s.Hears xs later →
    (s.block.parasitic = none → Serves xs [.channelReset, .send 0xCC] →
      exec .snMeasure s = .fault (.noValue .parasitic))
    ∧ (∀ par, s.block.parasitic = some par → s.block.resolution = none →
      Serves xs ([.channelReset, .send 0xCC] ++ strongPullupCalls s.params par ++ [.send 0x44]) →
      exec .snMeasure s = .fault (.noValue .resolution))

/-- No tick and no host operation ever stops a sound machine (rules R43, R44, 10_state.md): none reads a register that
holds no value, and none is refused by the model. -/
def Obligations.NoTickOrHostOperationStops : Prop :=
  ∀ (s : State) (i : Instr), s.block.Sound s.params → i = .orchTick ∨ i.hostMayIssue = true → ∃ t, exec i s = .next t

/-- `SN_DECODE` (rule R150): no register is written, and the result is sign times integer part plus fraction, the
fraction's bits below the resolution dropped, rounded by `RoundT`. -/
def Obligations.DecodeHandsBackTheTemperature : Prop :=
  (∀ args, decode (.op 0x22 args) = .ok (.snDecode args.lsb args.msb args.res))
  ∧ ∀ (s : State) (lsb msb : Byte) (res : ResCode) (raw mag : Nat) (sign : ℚ),
    raw = msb.toNat * 256 + lsb.toNat →
    (if raw < 0x8000 then mag = raw ∧ sign = 1 else mag = 0x10000 - raw ∧ sign = -1) →
    exec (.snDecode lsb msb res) s = .next (s.returned s.block s.outside (some (.temp
      (roundT s.params (sign * ((mag / 16 : Nat) + ((mag % 16) / 2 ^ (3 - res.toNat) : Nat) * (1 / 2 ^ (res.toNat + 1))))))))

/-- The closed form of the decode (rule R151): the magnitude with its low `s` bits cleared, in sixteenths of a
degree; at 12 bits it is the two's-complement word over 16; the range is -2048 to 2047.9375. -/
def Obligations.DecodeClosedForm : Prop :=
  ∀ (p : Params) (lsb msb : Byte) (res : ResCode), p.rounding = none →
    (let raw := msb ++ lsb
     let mag : Nat := raw.toInt.natAbs
     decodeTemp p lsb msb res = (raw.toInt.sign : ℚ) * (mag - mag % 2 ^ (3 - res.toNat) : Nat) / 16)
    ∧ decodeTemp p lsb msb 0b11 = ((msb ++ lsb).toInt : ℚ) / 16
    ∧ -2048 ≤ decodeTemp p lsb msb res ∧ decodeTemp p lsb msb res ≤ 32767 / 16

/-! ## Averaging Filter -/

/-- `FL_RECORD` (rules R161, R164): the converted and rounded sample enters at the end of the window and the sum; over
sixteen, the oldest leaves both; `len` is the window's length. The sample's operand line is the model's choice (log
entry 6), the Fahrenheit formula the spec's from general knowledge (log entry 19). -/
def Obligations.RecordWhole : Prop :=
  (∀ args, decode (.op 0x30 args) = .ok (.flRecord args.temp.signed))
  ∧ ∀ (s : State) (sample x : Temp), x = roundT s.params (match s.block.unit with
      | .celsius => sample
      | .fahrenheit => sample * (9 / 5) + 32) →
    (s.block.win.length < 16 →
      exec (.flRecord sample) s = .next (s.returned
        { s.block with win := s.block.win ++ [x], len := s.block.win.length + 1, sum := s.block.sum + x }
        s.outside none))
    ∧ (∀ oldest rest, s.block.win = oldest :: rest → 16 ≤ s.block.win.length →
      exec (.flRecord sample) s = .next (s.returned
        { s.block with win := rest ++ [x], len := s.block.win.length, sum := s.block.sum + x - oldest }
        s.outside none))

/-- After `n` records since the window was emptied it holds the last `min(n, 16)` converted samples in order, the
sum is theirs and the average is their mean (rule R166 a). -/
def Obligations.WindowHoldsTheLastSixteen : Prop :=
  ∀ (p : Params) (b : Block) (samples : List Temp), samples ≠ [] →
    (let c := samples.foldl (fun b x => b.record p x) b.clearWindow
     let xs := samples.map (fun x => roundT p (toUnit x b.unit))
     let kept := xs.drop (xs.length - 16)
     c.win = kept ∧ c.len = min samples.length 16 ∧ c.sum = kept.sum
       ∧ c.average = some (kept.sum / kept.length))

/-- `FL_AVERAGE` (rules R162, R45): the sum over the current length; an empty window has no value, never a number.
No register is written. That success is handed back beside an absent average is the model's reading (log entry 24). -/
def Obligations.AverageWhole : Prop :=
  (∀ args, decode (.op 0x31 args) = .ok .flAverage)
  ∧ ∀ s : State,
    exec .flAverage s = .next (s.returned s.block s.outside
      (if s.block.len = 0 then none else some (.temp (s.block.sum / s.block.len))))

/-- `FL_RESET` (rule R163): window empty, length and sum 0; two resets leave the same registers as one. -/
def Obligations.FilterResetWhole : Prop :=
  (∀ args, decode (.op 0x32 args) = .ok .flReset)
  ∧ (∀ s : State, exec .flReset s = .next (s.returned
      { s.block with win := [], len := 0, sum := 0 } s.outside none))
  ∧ (∀ b : Block, b.clearWindow.clearWindow = b.clearWindow)

/-! ## Hysteresis Controller -/

/-- `CT_EVAL` in every legal state: the complete transition table (rule R174), row by row; `state` alone is
written. -/
def Obligations.EvaluationTransitionTable : Prop :=
  ∀ (s : State) (avg : Temp) (q' : CtlState) (m : Mode) (q : CtlState) (lo tg hi : Temp),
    m = s.block.mode → q = s.block.state → lo = s.block.low → tg = s.block.target → hi = s.block.high →
    q ≠ .reserved →
    ((m = .off ∧ q' = .idle)
      ∨ (m = .cool ∧ avg ≥ hi ∧ q' = .cooling)
      ∨ (m = .cool ∧ avg < hi ∧ avg ≤ tg ∧ q' = .idle)
      ∨ (m = .cool ∧ tg < avg ∧ avg < hi ∧ q' = q)
      ∨ (m = .heat ∧ avg ≤ lo ∧ q' = .heating)
      ∨ (m = .heat ∧ avg > lo ∧ avg ≥ tg ∧ q' = .idle)
      ∨ (m = .heat ∧ lo < avg ∧ avg < tg ∧ q' = q)
      ∨ (m = .hold ∧ q = .idle ∧ avg ≥ hi ∧ q' = .cooling)
      ∨ (m = .hold ∧ q = .idle ∧ avg < hi ∧ avg ≤ lo ∧ q' = .heating)
      ∨ (m = .hold ∧ q = .idle ∧ lo < avg ∧ avg < hi ∧ q' = .idle)
      ∨ (m = .hold ∧ q = .cooling ∧ avg ≤ tg ∧ q' = .idle)
      ∨ (m = .hold ∧ q = .cooling ∧ avg > tg ∧ q' = .cooling)
      ∨ (m = .hold ∧ q = .heating ∧ avg ≥ tg ∧ q' = .idle)
      ∨ (m = .hold ∧ q = .heating ∧ avg < tg ∧ q' = .heating)) →
    exec (.ctEval avg) s = .next (s.returned { s.block with state := q' } s.outside none)

/-- The reserved state raises `InvariantViolation` at any mode and average, and the safe state follows (rules R87,
R187, R217, R212, R222). That `CT_EVAL` performed by itself ends in the safe state with the code handed back is the
model's reading of rule R212 (log entry 15). -/
def Obligations.ReservedStateIsAnInvariantViolation : Prop :=
  ∀ (s : State) (avg : Temp), s.block.state = .reserved →
    exec (.ctEval avg) s = .next (s.failed s.block s.outside .invariantViolation)

/-- In mode hold one evaluation never takes cooling to heating nor heating to cooling, whatever the thresholds
(rule R177 a); in mode off it gives idle (rule R177 e). -/
def Obligations.HoldPassesThroughIdle : Prop :=
  ∀ (q : CtlState) (avg target high low : Temp),
    (q = .cooling → nextState .hold q avg target high low ≠ .heating)
    ∧ (q = .heating → nextState .hold q avg target high low ≠ .cooling)
    ∧ nextState .off q avg target high low = .idle

/-- The setpoint mutators (rules R180, R181): `target` or `hyst` takes the operand and both thresholds are derived anew in
the same operation; nothing else changes. The operand line that carries the rational, and that `CT_SETHYST` does not
see its sign, are the model's choice under rule R93 (log entry 6). -/
def Obligations.SetpointMutators : Prop :=
  (∀ args, decode (.op 0x41 args) = .ok (.ctSettarget args.temp.signed)
    ∧ decode (.op 0x42 args) = .ok (.ctSethyst args.temp.magnitude))
  ∧ ∀ (s : State) (x : Temp),
    exec (.ctSettarget x) s = .next (s.returned
      { s.block with target := x, high := x + s.block.hyst, low := x - s.block.hyst } s.outside none)
    ∧ (0 ≤ x → exec (.ctSethyst x) s = .next (s.returned
      { s.block with hyst := x, high := s.block.target + x, low := s.block.target - x } s.outside none))

/-- `CT_SETUNIT` (rule R183): a change of unit empties the window and leaves `target`, `hyst`, `high`, `low`, `state`
and `drive` as they are; the current unit changes nothing. -/
def Obligations.SetUnitWhole : Prop :=
  (∀ args, decode (.op 0x43 args) = .ok (.ctSetunit (if args.unit = 0 then .celsius else .fahrenheit)))
  ∧ ∀ (s : State) (u : TempUnit),
    exec (.ctSetunit u) s = .next (s.returned
      (if u = s.block.unit then s.block else { s.block with unit := u, win := [], len := 0, sum := 0 })
      s.outside none)

/-- Mode cycling (rules R184, R185): the four-cycle off, cool, heat, hold forward and backward, each the inverse of the
other; nothing else changes. -/
def Obligations.ModeCycling : Prop :=
  (∀ args, decode (.op 0x44 args) = .ok .ctModeNext ∧ decode (.op 0x45 args) = .ok .ctModePrev)
  ∧ ∀ (s : State) (m n : Mode), (m, n) ∈ [(Mode.off, Mode.cool), (.cool, .heat), (.heat, .hold), (.hold, .off)] →
    (s.block.mode = m → exec .ctModeNext s = .next (s.returned { s.block with mode := n } s.outside none))
    ∧ (s.block.mode = n → exec .ctModePrev s = .next (s.returned { s.block with mode := m } s.outside none))

/-! ## Polling Orchestrator -/

/-- A tick while ticking is halted does nothing at all (rules R196, R223, R230). -/
def Obligations.HaltedTickDoesNothing : Prop :=
  ∀ s : State, s.block.ticking = false → exec .orchTick s = .next s

/-- A successful tick (rules R178, R196): on a conversation that serves a measurement it records the reading, averages,
evaluates, applies the new state to `drive` in one write, heating as heat, cooling as cool, idle as off (rule R175), and
notifies the host last. `b` is the block after the measurement and the record. -/
def Obligations.TickSucceeds : Prop :=
  ∀ (s : State) (res : ResCode) (par : Bool) (xs : List Exchange) (bad : List (List Exchange × Vector Byte 9))
    (ys : List Exchange) (sp : Vector Byte 9) (later : List Stimulus) (all : List Exchange) (v a : Temp) (b : Block) (q : CtlState)
    (d : Drive),
    s.block.ticking = true → s.block.parasitic = some par → s.block.resolution = some res →
    s.block.state ≠ .reserved → Serves xs (triggerCalls s.params par res) →
    (∀ y ∈ bad, Serves y.1 readScratchpadCalls ∧ y.1.filterMap Exchange.data = y.2.toList
      ∧ recordValid s.params y.2.toList 8 = false) →
    (∀ n, s.params.retryLimit = some n → bad.length < n) →
    Serves ys readScratchpadCalls → ys.filterMap Exchange.data = sp.toList → recordValid s.params sp.toList 8 = true →
    all = xs ++ bad.flatMap Prod.fst ++ ys → s.Hears all later →
    v = decodeTemp s.params sp[0] sp[1] res →
    b = Block.record s.params { s.block.conversed s.params all with
          snPhase := .idle, brPhase := .brIdle, sp := some sp, lastReading := some v } v →
    a = b.sum / b.len →
    q = nextState s.block.mode s.block.state a s.block.target s.block.high s.block.low →
    d = (if q = .heating then .heat else if q = .cooling then .cool else .off) →
    exec .orchTick s = .next { s with
      block := { b with
        state := q
        drive := d
        history := b.history ++ (if s.block.drive = d then [] else [.drive d])
          ++ [.notify (.measurementComplete v)] }
      busy := none
      outside := later }

/-- However a tick ends (rules R197, R202, R222): either it has notified the host of a reading, last, with `error`
as it was; or it is in the safe state, with the error's code, the host notified of it last, the drive off,
and window, sum, controller state, setpoint and identity as before. The tick hands no result back. The
premise rules out the reserved state, which no reachable block holds (rule R43 c). -/
def Obligations.FailedTickLeavesTheControllerAlone : Prop :=
  ∀ s t : State, s.block.ticking = true → s.block.state ≠ .reserved → exec .orchTick s = .next t → t.busy = none →
    t.result = s.result
    ∧ ((∃ v before, t.block.history = before ++ [.notify (.measurementComplete v)]
          ∧ t.block.lastReading = some v ∧ t.block.error = s.block.error ∧ t.block.ticking = true)
      ∨ (∃ e before, e ∈ [Err.transportTimeout, .noChannelPresence, .measurementFailed]
          ∧ t.block.history = before ++ [.notify (.fatalError e)]
          ∧ t.block = { s.block.withBusOf t.block with drive := .off, ticking := false, error := e }))

/-- No presence on the tick's first channel reset (rules R115, R202 b, R222): one write, one read, no delay, then the
safe state with `error = 3`; both outputs are off. -/
def Obligations.NoPresenceTurnsBothActuatorsOff : Prop :=
  ∀ (s : State) (ack st : Byte) (later : List Stimulus), s.block.ticking = true → st.getLsbD 1 = false →
    s.outside = .answer (.reply ack) :: .answer (.reply st) :: later →
    ∃ t, exec .orchTick s = .next t ∧ t.block.heatOut = false ∧ t.block.coolOut = false
      ∧ t.block.ticking = false ∧ t.block.error = .noChannelPresence ∧ t.block.lastStatus = some st
      ∧ t.block.history = s.block.history ++ [.busWrite [0xB4] true, .busRead (some st)]
          ++ (if s.block.drive = .off then [] else [.drive .off]) ++ [.notify (.fatalError .noChannelPresence)]

/-- `ORCH_START` (rule R200): refused before a successful `SN_INIT`; otherwise `error` is cleared and `ticking` set, and
nothing else changes. -/
def Obligations.OrchestratorStartWhole : Prop :=
  (∀ args, decode (.op 0x51 args) = .ok .orchStart)
  ∧ ∀ s : State,
    (s.block.initialized = true → exec .orchStart s = .next (s.returned
      { s.block with error := .noError, ticking := true } s.outside none))
    ∧ (s.block.initialized = false →
      exec .orchStart s = .next { s with busy := none, result := some ⟨.illegalOperation, none⟩ })

/-- TAKING AN EXCEPTION: the whole safe-state transition (rule R222): drive off, ticking halted, the code in `error`, the
notification; everything else keeps its value. The codes of the nine kinds are those of rule R211, and 1 to 6 are the
fatal ones (rule R212). -/
def Obligations.SafeStateWhole : Prop :=
  (∀ (b : Block) (e : Err), b.safeState e = { b with
    drive := .off
    ticking := false
    error := e
    history := b.history ++ (if b.drive = .off then [] else [.drive .off]) ++ [.notify (.fatalError e)] })
  ∧ (∀ e : Err, (e, e.code) ∈ [(Err.noError, 0#4), (.transportTimeout, 1), (.bridgeNotPresent, 2), (.noChannelPresence, 3),
    (.romChecksumInvalid, 4), (.measurementFailed, 5), (.invariantViolation, 6), (.checksumInputError, 7),
    (.illegalOperation, 8)])
  ∧ (∀ e : Err, e.fatal = true ↔ 1 ≤ e.code.toNat ∧ e.code.toNat ≤ 6)

/-! ## Whole-machine rules -/

/-- Only a successful tick turns an actuator on (rules R178, R223): every instruction leaves `drive` as it is or turns
it off, but for a tick that has ended and whose last event is the notification of its reading. A tick that fails or
waits turns none on. -/
def Obligations.OnlyATickTurnsAnActuatorOn : Prop :=
  ∀ (i : Instr) (s t : State), exec i s = .next t →
    t.block.drive = s.block.drive ∨ t.block.drive = .off
    ∨ (i = .orchTick ∧ s.block.ticking = true ∧ t.busy = none
      ∧ ∃ v before, t.block.history = before ++ [.notify (.measurementComplete v)] ∧ t.block.lastReading = some v)

/-- Only `SN_INIT` writes `rom`, `resolution`, `parasitic` and `initialized` (rules R26, R28, R29, R30). -/
def Obligations.OnlyInitialisationWritesTheSensorIdentity : Prop :=
  ∀ (i : Instr) (s t : State), (∀ res, i ≠ .snInit res) → exec i s = .next t →
    t.block.rom = s.block.rom ∧ t.block.resolution = s.block.resolution
    ∧ t.block.parasitic = s.block.parasitic ∧ t.block.initialized = s.block.initialized

/-- The block writes to the bus nothing but the byte lists of rule R78: what `SN_INIT`, `SN_MEASURE` and a tick add to the
history holds no other write. Every other instruction, an operation with operands of its own or a row of the wire
layers by itself, writes only commands of rule R71 in their format, never one of the 240 configuration bytes that are
not nibble-doubled (rules R70, R71, R74): each write decodes. No instruction sets the read pointer to anything but the
data register (rule R55), or sends another timing byte than `BIT_TIMING` (rule R76). -/
def Obligations.OnlyListedBytesReachTheBus : Prop :=
  ∀ (i : Instr) (s t : State), exec i s = .next t →
    ∃ added, t.block.history = s.block.history ++ added
      ∧ ((i = .snMeasure ∨ i = .orchTick ∨ ∃ res, i = .snInit res) → added.all (Event.listed s.params) = true)
      ∧ (∀ bytes ok, Event.busWrite bytes ok ∈ added → ∃ j, decode (.bus bytes) = .ok j)
      ∧ (∀ arg ok, (Event.busWrite [0xE1, arg] ok ∈ added → arg = s.params.ptrData)
        ∧ (Event.busWrite [0x87, arg] ok ∈ added → arg = s.params.bitTiming))

/-- An operation that waits for an answer has so far written nothing but the bus registers (rules R140, R197, R264):
`drive`, the controller, the window, the setpoint and the identity are as they were before it began. -/
def Obligations.WaitingOperationHasDecidedNothing : Prop :=
  ∀ (i : Instr) (s t : State), s.busy = none → exec i s = .next t → t.busy ≠ none →
    t.block = s.block.withBusOf t.block

/-- What the host can read (rules R45, R60): while an operation is in progress nothing; otherwise every field of rule R45
as it stands, the average by `FL_AVERAGE`, and `none` for a field with no value. -/
def Obligations.HostReadsTheFieldsOfAFreeBlock : Prop :=
  ∀ s : State,
    (s.busy ≠ none → s.hostRead = none)
    ∧ (s.busy = none → s.hostRead = some {
        lastStatus := s.block.lastStatus, cfgShadow := s.block.cfgShadow, rom := s.block.rom,
        resolution := s.block.resolution, parasitic := s.block.parasitic, initialized := s.block.initialized,
        lastReading := s.block.lastReading, len := s.block.len, sum := s.block.sum,
        average := if s.block.len = 0 then none else some (s.block.sum / s.block.len),
        mode := s.block.mode, state := s.block.state, drive := s.block.drive, target := s.block.target,
        hyst := s.block.hyst, high := s.block.high, low := s.block.low, unit := s.block.unit,
        ticking := s.block.ticking, error := s.block.error })
end

