-- ==== Sys2Proof/Laws/Checksum.lean ====
section
/-! SUPPORT. The checksum table and the shared operations over it, one lemma each. -/

namespace Sys2Proof.Machine

/-- The rows of rule R102 are 256 bytes. -/
theorem crcRows_length : crcRows.length = 256 := by decide +kernel

/-- A lookup in the table of rule R102 reads its rows. -/
theorem crcLookup_maxim {p : Params} (h : p.crcTable = maximTable) (a : Byte) :
    crcLookup p a = crcRows[a.toNat]'(by rw [crcRows_length]; exact a.isLt) := by
  simp [crcLookup, h, maximTable]

/-- Only index 0 of that table holds 0 (rule R105). -/
theorem crcLookup_eq_zero {p : Params} (h : p.crcTable = maximTable) (a : Byte) : crcLookup p a = 0 ↔ a = 0 := by
  rw [crcLookup_maxim h]
  revert a
  decide +kernel

/-- A table in which no byte occurs twice gives different bytes for different indices (rule R106). -/
theorem crcLookup_injective {p : Params} (h : p.crcTable.toList.Nodup) : Function.Injective (crcLookup p) := by
  intro a b hab
  have := (h.getElem_inj_iff (i := a.toNat) (j := b.toNat) (hi := by simpa using a.isLt) (hj := by simpa using b.isLt)).mp
    (by simpa [crcLookup] using hab)
  exact BitVec.eq_of_toNat_eq this

@[simp] theorem crcFold_nil (p : Params) (acc : Byte) : crcFold p acc [] = acc := rfl

@[simp] theorem crcFold_cons (p : Params) (acc b : Byte) (l : List Byte) :
    crcFold p acc (b :: l) = crcFold p (crcStep p acc b) l := rfl

theorem crcFold_append (p : Params) (acc : Byte) (l m : List Byte) :
    crcFold p acc (l ++ m) = crcFold p (crcFold p acc l) m :=
  List.foldl_append ..

/-- All `CHECKSUM` can come to (rules R101, R104). -/
theorem checksum_some (p : Params) (l : List Byte) (offset length : Nat) : checksum p (some l) offset length =
    if length = 0 ∨ l.length < offset + length then .error .checksumInputError
    else .ok (crcFold p p.crcInit ((l.drop offset).take length)) := rfl

/-- What validity says, byte `k` being there (rule R105). -/
theorem recordValid_eq (p : Params) (l : List Byte) (k : Nat) (hk : 0 < k) (hl : k < l.length) :
    recordValid p l k = (crcFold p p.crcInit (l.take k) == l[k]) := by
  unfold recordValid
  rw [checksum_some, if_neg (by omega), List.getElem?_eq_getElem hl]
  rfl

end Sys2Proof.Machine
end

