-- ==== Sys2Proof/Laws/State.lean ====
section
/-! SUPPORT. What each named register update leaves in each register: one lemma per field per update, so
that no later proof unfolds a record update. -/

namespace Sys2Proof.Machine

/-! ### `emit` -/

@[simp] theorem Block.emit_snPhase (b : Block) (e : Event) : (b.emit e).snPhase = b.snPhase := rfl
@[simp] theorem Block.emit_brPhase (b : Block) (e : Event) : (b.emit e).brPhase = b.brPhase := rfl
@[simp] theorem Block.emit_lastStatus (b : Block) (e : Event) : (b.emit e).lastStatus = b.lastStatus := rfl
@[simp] theorem Block.emit_cfgShadow (b : Block) (e : Event) : (b.emit e).cfgShadow = b.cfgShadow := rfl
@[simp] theorem Block.emit_rom (b : Block) (e : Event) : (b.emit e).rom = b.rom := rfl
@[simp] theorem Block.emit_sp (b : Block) (e : Event) : (b.emit e).sp = b.sp := rfl
@[simp] theorem Block.emit_resolution (b : Block) (e : Event) : (b.emit e).resolution = b.resolution := rfl
@[simp] theorem Block.emit_parasitic (b : Block) (e : Event) : (b.emit e).parasitic = b.parasitic := rfl
@[simp] theorem Block.emit_initialized (b : Block) (e : Event) : (b.emit e).initialized = b.initialized := rfl
@[simp] theorem Block.emit_lastReading (b : Block) (e : Event) : (b.emit e).lastReading = b.lastReading := rfl
@[simp] theorem Block.emit_win (b : Block) (e : Event) : (b.emit e).win = b.win := rfl
@[simp] theorem Block.emit_len (b : Block) (e : Event) : (b.emit e).len = b.len := rfl
@[simp] theorem Block.emit_sum (b : Block) (e : Event) : (b.emit e).sum = b.sum := rfl
@[simp] theorem Block.emit_mode (b : Block) (e : Event) : (b.emit e).mode = b.mode := rfl
@[simp] theorem Block.emit_state (b : Block) (e : Event) : (b.emit e).state = b.state := rfl
@[simp] theorem Block.emit_drive (b : Block) (e : Event) : (b.emit e).drive = b.drive := rfl
@[simp] theorem Block.emit_target (b : Block) (e : Event) : (b.emit e).target = b.target := rfl
@[simp] theorem Block.emit_hyst (b : Block) (e : Event) : (b.emit e).hyst = b.hyst := rfl
@[simp] theorem Block.emit_high (b : Block) (e : Event) : (b.emit e).high = b.high := rfl
@[simp] theorem Block.emit_low (b : Block) (e : Event) : (b.emit e).low = b.low := rfl
@[simp] theorem Block.emit_unit (b : Block) (e : Event) : (b.emit e).unit = b.unit := rfl
@[simp] theorem Block.emit_ticking (b : Block) (e : Event) : (b.emit e).ticking = b.ticking := rfl
@[simp] theorem Block.emit_error (b : Block) (e : Event) : (b.emit e).error = b.error := rfl
@[simp] theorem Block.emit_history (b : Block) (e : Event) : (b.emit e).history = b.history ++ [e] := rfl

/-! ### `setSnPhase` -/

@[simp] theorem Block.setSnPhase_snPhase (b : Block) (ph : SnPhase) : (b.setSnPhase ph).snPhase = ph := rfl
@[simp] theorem Block.setSnPhase_brPhase (b : Block) (ph : SnPhase) : (b.setSnPhase ph).brPhase = b.brPhase := rfl
@[simp] theorem Block.setSnPhase_lastStatus (b : Block) (ph : SnPhase) : (b.setSnPhase ph).lastStatus = b.lastStatus := rfl
@[simp] theorem Block.setSnPhase_cfgShadow (b : Block) (ph : SnPhase) : (b.setSnPhase ph).cfgShadow = b.cfgShadow := rfl
@[simp] theorem Block.setSnPhase_rom (b : Block) (ph : SnPhase) : (b.setSnPhase ph).rom = b.rom := rfl
@[simp] theorem Block.setSnPhase_sp (b : Block) (ph : SnPhase) : (b.setSnPhase ph).sp = b.sp := rfl
@[simp] theorem Block.setSnPhase_resolution (b : Block) (ph : SnPhase) : (b.setSnPhase ph).resolution = b.resolution := rfl
@[simp] theorem Block.setSnPhase_parasitic (b : Block) (ph : SnPhase) : (b.setSnPhase ph).parasitic = b.parasitic := rfl
@[simp] theorem Block.setSnPhase_initialized (b : Block) (ph : SnPhase) : (b.setSnPhase ph).initialized = b.initialized := rfl
@[simp] theorem Block.setSnPhase_lastReading (b : Block) (ph : SnPhase) : (b.setSnPhase ph).lastReading = b.lastReading := rfl
@[simp] theorem Block.setSnPhase_win (b : Block) (ph : SnPhase) : (b.setSnPhase ph).win = b.win := rfl
@[simp] theorem Block.setSnPhase_len (b : Block) (ph : SnPhase) : (b.setSnPhase ph).len = b.len := rfl
@[simp] theorem Block.setSnPhase_sum (b : Block) (ph : SnPhase) : (b.setSnPhase ph).sum = b.sum := rfl
@[simp] theorem Block.setSnPhase_mode (b : Block) (ph : SnPhase) : (b.setSnPhase ph).mode = b.mode := rfl
@[simp] theorem Block.setSnPhase_state (b : Block) (ph : SnPhase) : (b.setSnPhase ph).state = b.state := rfl
@[simp] theorem Block.setSnPhase_drive (b : Block) (ph : SnPhase) : (b.setSnPhase ph).drive = b.drive := rfl
@[simp] theorem Block.setSnPhase_target (b : Block) (ph : SnPhase) : (b.setSnPhase ph).target = b.target := rfl
@[simp] theorem Block.setSnPhase_hyst (b : Block) (ph : SnPhase) : (b.setSnPhase ph).hyst = b.hyst := rfl
@[simp] theorem Block.setSnPhase_high (b : Block) (ph : SnPhase) : (b.setSnPhase ph).high = b.high := rfl
@[simp] theorem Block.setSnPhase_low (b : Block) (ph : SnPhase) : (b.setSnPhase ph).low = b.low := rfl
@[simp] theorem Block.setSnPhase_unit (b : Block) (ph : SnPhase) : (b.setSnPhase ph).unit = b.unit := rfl
@[simp] theorem Block.setSnPhase_ticking (b : Block) (ph : SnPhase) : (b.setSnPhase ph).ticking = b.ticking := rfl
@[simp] theorem Block.setSnPhase_error (b : Block) (ph : SnPhase) : (b.setSnPhase ph).error = b.error := rfl
@[simp] theorem Block.setSnPhase_history (b : Block) (ph : SnPhase) : (b.setSnPhase ph).history = b.history := rfl

/-! ### `setBrPhase` -/

@[simp] theorem Block.setBrPhase_snPhase (b : Block) (ph : BrPhase) : (b.setBrPhase ph).snPhase = b.snPhase := rfl
@[simp] theorem Block.setBrPhase_brPhase (b : Block) (ph : BrPhase) : (b.setBrPhase ph).brPhase = ph := rfl
@[simp] theorem Block.setBrPhase_lastStatus (b : Block) (ph : BrPhase) : (b.setBrPhase ph).lastStatus = b.lastStatus := rfl
@[simp] theorem Block.setBrPhase_cfgShadow (b : Block) (ph : BrPhase) : (b.setBrPhase ph).cfgShadow = b.cfgShadow := rfl
@[simp] theorem Block.setBrPhase_rom (b : Block) (ph : BrPhase) : (b.setBrPhase ph).rom = b.rom := rfl
@[simp] theorem Block.setBrPhase_sp (b : Block) (ph : BrPhase) : (b.setBrPhase ph).sp = b.sp := rfl
@[simp] theorem Block.setBrPhase_resolution (b : Block) (ph : BrPhase) : (b.setBrPhase ph).resolution = b.resolution := rfl
@[simp] theorem Block.setBrPhase_parasitic (b : Block) (ph : BrPhase) : (b.setBrPhase ph).parasitic = b.parasitic := rfl
@[simp] theorem Block.setBrPhase_initialized (b : Block) (ph : BrPhase) : (b.setBrPhase ph).initialized = b.initialized := rfl
@[simp] theorem Block.setBrPhase_lastReading (b : Block) (ph : BrPhase) : (b.setBrPhase ph).lastReading = b.lastReading := rfl
@[simp] theorem Block.setBrPhase_win (b : Block) (ph : BrPhase) : (b.setBrPhase ph).win = b.win := rfl
@[simp] theorem Block.setBrPhase_len (b : Block) (ph : BrPhase) : (b.setBrPhase ph).len = b.len := rfl
@[simp] theorem Block.setBrPhase_sum (b : Block) (ph : BrPhase) : (b.setBrPhase ph).sum = b.sum := rfl
@[simp] theorem Block.setBrPhase_mode (b : Block) (ph : BrPhase) : (b.setBrPhase ph).mode = b.mode := rfl
@[simp] theorem Block.setBrPhase_state (b : Block) (ph : BrPhase) : (b.setBrPhase ph).state = b.state := rfl
@[simp] theorem Block.setBrPhase_drive (b : Block) (ph : BrPhase) : (b.setBrPhase ph).drive = b.drive := rfl
@[simp] theorem Block.setBrPhase_target (b : Block) (ph : BrPhase) : (b.setBrPhase ph).target = b.target := rfl
@[simp] theorem Block.setBrPhase_hyst (b : Block) (ph : BrPhase) : (b.setBrPhase ph).hyst = b.hyst := rfl
@[simp] theorem Block.setBrPhase_high (b : Block) (ph : BrPhase) : (b.setBrPhase ph).high = b.high := rfl
@[simp] theorem Block.setBrPhase_low (b : Block) (ph : BrPhase) : (b.setBrPhase ph).low = b.low := rfl
@[simp] theorem Block.setBrPhase_unit (b : Block) (ph : BrPhase) : (b.setBrPhase ph).unit = b.unit := rfl
@[simp] theorem Block.setBrPhase_ticking (b : Block) (ph : BrPhase) : (b.setBrPhase ph).ticking = b.ticking := rfl
@[simp] theorem Block.setBrPhase_error (b : Block) (ph : BrPhase) : (b.setBrPhase ph).error = b.error := rfl
@[simp] theorem Block.setBrPhase_history (b : Block) (ph : BrPhase) : (b.setBrPhase ph).history = b.history := rfl

/-! ### `idlePhases` -/

@[simp] theorem Block.idlePhases_snPhase (b : Block) : (b.idlePhases).snPhase = .idle := rfl
@[simp] theorem Block.idlePhases_brPhase (b : Block) : (b.idlePhases).brPhase = .brIdle := rfl
@[simp] theorem Block.idlePhases_lastStatus (b : Block) : (b.idlePhases).lastStatus = b.lastStatus := rfl
@[simp] theorem Block.idlePhases_cfgShadow (b : Block) : (b.idlePhases).cfgShadow = b.cfgShadow := rfl
@[simp] theorem Block.idlePhases_rom (b : Block) : (b.idlePhases).rom = b.rom := rfl
@[simp] theorem Block.idlePhases_sp (b : Block) : (b.idlePhases).sp = b.sp := rfl
@[simp] theorem Block.idlePhases_resolution (b : Block) : (b.idlePhases).resolution = b.resolution := rfl
@[simp] theorem Block.idlePhases_parasitic (b : Block) : (b.idlePhases).parasitic = b.parasitic := rfl
@[simp] theorem Block.idlePhases_initialized (b : Block) : (b.idlePhases).initialized = b.initialized := rfl
@[simp] theorem Block.idlePhases_lastReading (b : Block) : (b.idlePhases).lastReading = b.lastReading := rfl
@[simp] theorem Block.idlePhases_win (b : Block) : (b.idlePhases).win = b.win := rfl
@[simp] theorem Block.idlePhases_len (b : Block) : (b.idlePhases).len = b.len := rfl
@[simp] theorem Block.idlePhases_sum (b : Block) : (b.idlePhases).sum = b.sum := rfl
@[simp] theorem Block.idlePhases_mode (b : Block) : (b.idlePhases).mode = b.mode := rfl
@[simp] theorem Block.idlePhases_state (b : Block) : (b.idlePhases).state = b.state := rfl
@[simp] theorem Block.idlePhases_drive (b : Block) : (b.idlePhases).drive = b.drive := rfl
@[simp] theorem Block.idlePhases_target (b : Block) : (b.idlePhases).target = b.target := rfl
@[simp] theorem Block.idlePhases_hyst (b : Block) : (b.idlePhases).hyst = b.hyst := rfl
@[simp] theorem Block.idlePhases_high (b : Block) : (b.idlePhases).high = b.high := rfl
@[simp] theorem Block.idlePhases_low (b : Block) : (b.idlePhases).low = b.low := rfl
@[simp] theorem Block.idlePhases_unit (b : Block) : (b.idlePhases).unit = b.unit := rfl
@[simp] theorem Block.idlePhases_ticking (b : Block) : (b.idlePhases).ticking = b.ticking := rfl
@[simp] theorem Block.idlePhases_error (b : Block) : (b.idlePhases).error = b.error := rfl
@[simp] theorem Block.idlePhases_history (b : Block) : (b.idlePhases).history = b.history := rfl

/-! ### `setLastStatus` -/

@[simp] theorem Block.setLastStatus_snPhase (b : Block) (s : Byte) : (b.setLastStatus s).snPhase = b.snPhase := rfl
@[simp] theorem Block.setLastStatus_brPhase (b : Block) (s : Byte) : (b.setLastStatus s).brPhase = b.brPhase := rfl
@[simp] theorem Block.setLastStatus_lastStatus (b : Block) (s : Byte) : (b.setLastStatus s).lastStatus = some s := rfl
@[simp] theorem Block.setLastStatus_cfgShadow (b : Block) (s : Byte) : (b.setLastStatus s).cfgShadow = b.cfgShadow := rfl
@[simp] theorem Block.setLastStatus_rom (b : Block) (s : Byte) : (b.setLastStatus s).rom = b.rom := rfl
@[simp] theorem Block.setLastStatus_sp (b : Block) (s : Byte) : (b.setLastStatus s).sp = b.sp := rfl
@[simp] theorem Block.setLastStatus_resolution (b : Block) (s : Byte) : (b.setLastStatus s).resolution = b.resolution := rfl
@[simp] theorem Block.setLastStatus_parasitic (b : Block) (s : Byte) : (b.setLastStatus s).parasitic = b.parasitic := rfl
@[simp] theorem Block.setLastStatus_initialized (b : Block) (s : Byte) : (b.setLastStatus s).initialized = b.initialized := rfl
@[simp] theorem Block.setLastStatus_lastReading (b : Block) (s : Byte) : (b.setLastStatus s).lastReading = b.lastReading := rfl
@[simp] theorem Block.setLastStatus_win (b : Block) (s : Byte) : (b.setLastStatus s).win = b.win := rfl
@[simp] theorem Block.setLastStatus_len (b : Block) (s : Byte) : (b.setLastStatus s).len = b.len := rfl
@[simp] theorem Block.setLastStatus_sum (b : Block) (s : Byte) : (b.setLastStatus s).sum = b.sum := rfl
@[simp] theorem Block.setLastStatus_mode (b : Block) (s : Byte) : (b.setLastStatus s).mode = b.mode := rfl
@[simp] theorem Block.setLastStatus_state (b : Block) (s : Byte) : (b.setLastStatus s).state = b.state := rfl
@[simp] theorem Block.setLastStatus_drive (b : Block) (s : Byte) : (b.setLastStatus s).drive = b.drive := rfl
@[simp] theorem Block.setLastStatus_target (b : Block) (s : Byte) : (b.setLastStatus s).target = b.target := rfl
@[simp] theorem Block.setLastStatus_hyst (b : Block) (s : Byte) : (b.setLastStatus s).hyst = b.hyst := rfl
@[simp] theorem Block.setLastStatus_high (b : Block) (s : Byte) : (b.setLastStatus s).high = b.high := rfl
@[simp] theorem Block.setLastStatus_low (b : Block) (s : Byte) : (b.setLastStatus s).low = b.low := rfl
@[simp] theorem Block.setLastStatus_unit (b : Block) (s : Byte) : (b.setLastStatus s).unit = b.unit := rfl
@[simp] theorem Block.setLastStatus_ticking (b : Block) (s : Byte) : (b.setLastStatus s).ticking = b.ticking := rfl
@[simp] theorem Block.setLastStatus_error (b : Block) (s : Byte) : (b.setLastStatus s).error = b.error := rfl
@[simp] theorem Block.setLastStatus_history (b : Block) (s : Byte) : (b.setLastStatus s).history = b.history := rfl

/-! ### `setCfgShadow` -/

@[simp] theorem Block.setCfgShadow_snPhase (b : Block) (n : Nibble) : (b.setCfgShadow n).snPhase = b.snPhase := rfl
@[simp] theorem Block.setCfgShadow_brPhase (b : Block) (n : Nibble) : (b.setCfgShadow n).brPhase = b.brPhase := rfl
@[simp] theorem Block.setCfgShadow_lastStatus (b : Block) (n : Nibble) : (b.setCfgShadow n).lastStatus = b.lastStatus := rfl
@[simp] theorem Block.setCfgShadow_cfgShadow (b : Block) (n : Nibble) : (b.setCfgShadow n).cfgShadow = some n := rfl
@[simp] theorem Block.setCfgShadow_rom (b : Block) (n : Nibble) : (b.setCfgShadow n).rom = b.rom := rfl
@[simp] theorem Block.setCfgShadow_sp (b : Block) (n : Nibble) : (b.setCfgShadow n).sp = b.sp := rfl
@[simp] theorem Block.setCfgShadow_resolution (b : Block) (n : Nibble) : (b.setCfgShadow n).resolution = b.resolution := rfl
@[simp] theorem Block.setCfgShadow_parasitic (b : Block) (n : Nibble) : (b.setCfgShadow n).parasitic = b.parasitic := rfl
@[simp] theorem Block.setCfgShadow_initialized (b : Block) (n : Nibble) : (b.setCfgShadow n).initialized = b.initialized := rfl
@[simp] theorem Block.setCfgShadow_lastReading (b : Block) (n : Nibble) : (b.setCfgShadow n).lastReading = b.lastReading := rfl
@[simp] theorem Block.setCfgShadow_win (b : Block) (n : Nibble) : (b.setCfgShadow n).win = b.win := rfl
@[simp] theorem Block.setCfgShadow_len (b : Block) (n : Nibble) : (b.setCfgShadow n).len = b.len := rfl
@[simp] theorem Block.setCfgShadow_sum (b : Block) (n : Nibble) : (b.setCfgShadow n).sum = b.sum := rfl
@[simp] theorem Block.setCfgShadow_mode (b : Block) (n : Nibble) : (b.setCfgShadow n).mode = b.mode := rfl
@[simp] theorem Block.setCfgShadow_state (b : Block) (n : Nibble) : (b.setCfgShadow n).state = b.state := rfl
@[simp] theorem Block.setCfgShadow_drive (b : Block) (n : Nibble) : (b.setCfgShadow n).drive = b.drive := rfl
@[simp] theorem Block.setCfgShadow_target (b : Block) (n : Nibble) : (b.setCfgShadow n).target = b.target := rfl
@[simp] theorem Block.setCfgShadow_hyst (b : Block) (n : Nibble) : (b.setCfgShadow n).hyst = b.hyst := rfl
@[simp] theorem Block.setCfgShadow_high (b : Block) (n : Nibble) : (b.setCfgShadow n).high = b.high := rfl
@[simp] theorem Block.setCfgShadow_low (b : Block) (n : Nibble) : (b.setCfgShadow n).low = b.low := rfl
@[simp] theorem Block.setCfgShadow_unit (b : Block) (n : Nibble) : (b.setCfgShadow n).unit = b.unit := rfl
@[simp] theorem Block.setCfgShadow_ticking (b : Block) (n : Nibble) : (b.setCfgShadow n).ticking = b.ticking := rfl
@[simp] theorem Block.setCfgShadow_error (b : Block) (n : Nibble) : (b.setCfgShadow n).error = b.error := rfl
@[simp] theorem Block.setCfgShadow_history (b : Block) (n : Nibble) : (b.setCfgShadow n).history = b.history := rfl

/-! ### `setSp` -/

@[simp] theorem Block.setSp_snPhase (b : Block) (v : Vector Byte 9) : (b.setSp v).snPhase = b.snPhase := rfl
@[simp] theorem Block.setSp_brPhase (b : Block) (v : Vector Byte 9) : (b.setSp v).brPhase = b.brPhase := rfl
@[simp] theorem Block.setSp_lastStatus (b : Block) (v : Vector Byte 9) : (b.setSp v).lastStatus = b.lastStatus := rfl
@[simp] theorem Block.setSp_cfgShadow (b : Block) (v : Vector Byte 9) : (b.setSp v).cfgShadow = b.cfgShadow := rfl
@[simp] theorem Block.setSp_rom (b : Block) (v : Vector Byte 9) : (b.setSp v).rom = b.rom := rfl
@[simp] theorem Block.setSp_sp (b : Block) (v : Vector Byte 9) : (b.setSp v).sp = some v := rfl
@[simp] theorem Block.setSp_resolution (b : Block) (v : Vector Byte 9) : (b.setSp v).resolution = b.resolution := rfl
@[simp] theorem Block.setSp_parasitic (b : Block) (v : Vector Byte 9) : (b.setSp v).parasitic = b.parasitic := rfl
@[simp] theorem Block.setSp_initialized (b : Block) (v : Vector Byte 9) : (b.setSp v).initialized = b.initialized := rfl
@[simp] theorem Block.setSp_lastReading (b : Block) (v : Vector Byte 9) : (b.setSp v).lastReading = b.lastReading := rfl
@[simp] theorem Block.setSp_win (b : Block) (v : Vector Byte 9) : (b.setSp v).win = b.win := rfl
@[simp] theorem Block.setSp_len (b : Block) (v : Vector Byte 9) : (b.setSp v).len = b.len := rfl
@[simp] theorem Block.setSp_sum (b : Block) (v : Vector Byte 9) : (b.setSp v).sum = b.sum := rfl
@[simp] theorem Block.setSp_mode (b : Block) (v : Vector Byte 9) : (b.setSp v).mode = b.mode := rfl
@[simp] theorem Block.setSp_state (b : Block) (v : Vector Byte 9) : (b.setSp v).state = b.state := rfl
@[simp] theorem Block.setSp_drive (b : Block) (v : Vector Byte 9) : (b.setSp v).drive = b.drive := rfl
@[simp] theorem Block.setSp_target (b : Block) (v : Vector Byte 9) : (b.setSp v).target = b.target := rfl
@[simp] theorem Block.setSp_hyst (b : Block) (v : Vector Byte 9) : (b.setSp v).hyst = b.hyst := rfl
@[simp] theorem Block.setSp_high (b : Block) (v : Vector Byte 9) : (b.setSp v).high = b.high := rfl
@[simp] theorem Block.setSp_low (b : Block) (v : Vector Byte 9) : (b.setSp v).low = b.low := rfl
@[simp] theorem Block.setSp_unit (b : Block) (v : Vector Byte 9) : (b.setSp v).unit = b.unit := rfl
@[simp] theorem Block.setSp_ticking (b : Block) (v : Vector Byte 9) : (b.setSp v).ticking = b.ticking := rfl
@[simp] theorem Block.setSp_error (b : Block) (v : Vector Byte 9) : (b.setSp v).error = b.error := rfl
@[simp] theorem Block.setSp_history (b : Block) (v : Vector Byte 9) : (b.setSp v).history = b.history := rfl

/-! ### `setLastReading` -/

@[simp] theorem Block.setLastReading_snPhase (b : Block) (t : Temp) : (b.setLastReading t).snPhase = b.snPhase := rfl
@[simp] theorem Block.setLastReading_brPhase (b : Block) (t : Temp) : (b.setLastReading t).brPhase = b.brPhase := rfl
@[simp] theorem Block.setLastReading_lastStatus (b : Block) (t : Temp) : (b.setLastReading t).lastStatus = b.lastStatus := rfl
@[simp] theorem Block.setLastReading_cfgShadow (b : Block) (t : Temp) : (b.setLastReading t).cfgShadow = b.cfgShadow := rfl
@[simp] theorem Block.setLastReading_rom (b : Block) (t : Temp) : (b.setLastReading t).rom = b.rom := rfl
@[simp] theorem Block.setLastReading_sp (b : Block) (t : Temp) : (b.setLastReading t).sp = b.sp := rfl
@[simp] theorem Block.setLastReading_resolution (b : Block) (t : Temp) : (b.setLastReading t).resolution = b.resolution := rfl
@[simp] theorem Block.setLastReading_parasitic (b : Block) (t : Temp) : (b.setLastReading t).parasitic = b.parasitic := rfl
@[simp] theorem Block.setLastReading_initialized (b : Block) (t : Temp) : (b.setLastReading t).initialized = b.initialized := rfl
@[simp] theorem Block.setLastReading_lastReading (b : Block) (t : Temp) : (b.setLastReading t).lastReading = some t := rfl
@[simp] theorem Block.setLastReading_win (b : Block) (t : Temp) : (b.setLastReading t).win = b.win := rfl
@[simp] theorem Block.setLastReading_len (b : Block) (t : Temp) : (b.setLastReading t).len = b.len := rfl
@[simp] theorem Block.setLastReading_sum (b : Block) (t : Temp) : (b.setLastReading t).sum = b.sum := rfl
@[simp] theorem Block.setLastReading_mode (b : Block) (t : Temp) : (b.setLastReading t).mode = b.mode := rfl
@[simp] theorem Block.setLastReading_state (b : Block) (t : Temp) : (b.setLastReading t).state = b.state := rfl
@[simp] theorem Block.setLastReading_drive (b : Block) (t : Temp) : (b.setLastReading t).drive = b.drive := rfl
@[simp] theorem Block.setLastReading_target (b : Block) (t : Temp) : (b.setLastReading t).target = b.target := rfl
@[simp] theorem Block.setLastReading_hyst (b : Block) (t : Temp) : (b.setLastReading t).hyst = b.hyst := rfl
@[simp] theorem Block.setLastReading_high (b : Block) (t : Temp) : (b.setLastReading t).high = b.high := rfl
@[simp] theorem Block.setLastReading_low (b : Block) (t : Temp) : (b.setLastReading t).low = b.low := rfl
@[simp] theorem Block.setLastReading_unit (b : Block) (t : Temp) : (b.setLastReading t).unit = b.unit := rfl
@[simp] theorem Block.setLastReading_ticking (b : Block) (t : Temp) : (b.setLastReading t).ticking = b.ticking := rfl
@[simp] theorem Block.setLastReading_error (b : Block) (t : Temp) : (b.setLastReading t).error = b.error := rfl
@[simp] theorem Block.setLastReading_history (b : Block) (t : Temp) : (b.setLastReading t).history = b.history := rfl

/-! ### `setWindow` -/

@[simp] theorem Block.setWindow_snPhase (b : Block) (w : List Temp) (x : Temp) : (b.setWindow w x).snPhase = b.snPhase := rfl
@[simp] theorem Block.setWindow_brPhase (b : Block) (w : List Temp) (x : Temp) : (b.setWindow w x).brPhase = b.brPhase := rfl
@[simp] theorem Block.setWindow_lastStatus (b : Block) (w : List Temp) (x : Temp) : (b.setWindow w x).lastStatus = b.lastStatus := rfl
@[simp] theorem Block.setWindow_cfgShadow (b : Block) (w : List Temp) (x : Temp) : (b.setWindow w x).cfgShadow = b.cfgShadow := rfl
@[simp] theorem Block.setWindow_rom (b : Block) (w : List Temp) (x : Temp) : (b.setWindow w x).rom = b.rom := rfl
@[simp] theorem Block.setWindow_sp (b : Block) (w : List Temp) (x : Temp) : (b.setWindow w x).sp = b.sp := rfl
@[simp] theorem Block.setWindow_resolution (b : Block) (w : List Temp) (x : Temp) : (b.setWindow w x).resolution = b.resolution := rfl
@[simp] theorem Block.setWindow_parasitic (b : Block) (w : List Temp) (x : Temp) : (b.setWindow w x).parasitic = b.parasitic := rfl
@[simp] theorem Block.setWindow_initialized (b : Block) (w : List Temp) (x : Temp) : (b.setWindow w x).initialized = b.initialized := rfl
@[simp] theorem Block.setWindow_lastReading (b : Block) (w : List Temp) (x : Temp) : (b.setWindow w x).lastReading = b.lastReading := rfl
@[simp] theorem Block.setWindow_win (b : Block) (w : List Temp) (x : Temp) : (b.setWindow w x).win = w := rfl
@[simp] theorem Block.setWindow_len (b : Block) (w : List Temp) (x : Temp) : (b.setWindow w x).len = w.length := rfl
@[simp] theorem Block.setWindow_sum (b : Block) (w : List Temp) (x : Temp) : (b.setWindow w x).sum = x := rfl
@[simp] theorem Block.setWindow_mode (b : Block) (w : List Temp) (x : Temp) : (b.setWindow w x).mode = b.mode := rfl
@[simp] theorem Block.setWindow_state (b : Block) (w : List Temp) (x : Temp) : (b.setWindow w x).state = b.state := rfl
@[simp] theorem Block.setWindow_drive (b : Block) (w : List Temp) (x : Temp) : (b.setWindow w x).drive = b.drive := rfl
@[simp] theorem Block.setWindow_target (b : Block) (w : List Temp) (x : Temp) : (b.setWindow w x).target = b.target := rfl
@[simp] theorem Block.setWindow_hyst (b : Block) (w : List Temp) (x : Temp) : (b.setWindow w x).hyst = b.hyst := rfl
@[simp] theorem Block.setWindow_high (b : Block) (w : List Temp) (x : Temp) : (b.setWindow w x).high = b.high := rfl
@[simp] theorem Block.setWindow_low (b : Block) (w : List Temp) (x : Temp) : (b.setWindow w x).low = b.low := rfl
@[simp] theorem Block.setWindow_unit (b : Block) (w : List Temp) (x : Temp) : (b.setWindow w x).unit = b.unit := rfl
@[simp] theorem Block.setWindow_ticking (b : Block) (w : List Temp) (x : Temp) : (b.setWindow w x).ticking = b.ticking := rfl
@[simp] theorem Block.setWindow_error (b : Block) (w : List Temp) (x : Temp) : (b.setWindow w x).error = b.error := rfl
@[simp] theorem Block.setWindow_history (b : Block) (w : List Temp) (x : Temp) : (b.setWindow w x).history = b.history := rfl

/-! ### `setMode` -/

@[simp] theorem Block.setMode_snPhase (b : Block) (m : Mode) : (b.setMode m).snPhase = b.snPhase := rfl
@[simp] theorem Block.setMode_brPhase (b : Block) (m : Mode) : (b.setMode m).brPhase = b.brPhase := rfl
@[simp] theorem Block.setMode_lastStatus (b : Block) (m : Mode) : (b.setMode m).lastStatus = b.lastStatus := rfl
@[simp] theorem Block.setMode_cfgShadow (b : Block) (m : Mode) : (b.setMode m).cfgShadow = b.cfgShadow := rfl
@[simp] theorem Block.setMode_rom (b : Block) (m : Mode) : (b.setMode m).rom = b.rom := rfl
@[simp] theorem Block.setMode_sp (b : Block) (m : Mode) : (b.setMode m).sp = b.sp := rfl
@[simp] theorem Block.setMode_resolution (b : Block) (m : Mode) : (b.setMode m).resolution = b.resolution := rfl
@[simp] theorem Block.setMode_parasitic (b : Block) (m : Mode) : (b.setMode m).parasitic = b.parasitic := rfl
@[simp] theorem Block.setMode_initialized (b : Block) (m : Mode) : (b.setMode m).initialized = b.initialized := rfl
@[simp] theorem Block.setMode_lastReading (b : Block) (m : Mode) : (b.setMode m).lastReading = b.lastReading := rfl
@[simp] theorem Block.setMode_win (b : Block) (m : Mode) : (b.setMode m).win = b.win := rfl
@[simp] theorem Block.setMode_len (b : Block) (m : Mode) : (b.setMode m).len = b.len := rfl
@[simp] theorem Block.setMode_sum (b : Block) (m : Mode) : (b.setMode m).sum = b.sum := rfl
@[simp] theorem Block.setMode_mode (b : Block) (m : Mode) : (b.setMode m).mode = m := rfl
@[simp] theorem Block.setMode_state (b : Block) (m : Mode) : (b.setMode m).state = b.state := rfl
@[simp] theorem Block.setMode_drive (b : Block) (m : Mode) : (b.setMode m).drive = b.drive := rfl
@[simp] theorem Block.setMode_target (b : Block) (m : Mode) : (b.setMode m).target = b.target := rfl
@[simp] theorem Block.setMode_hyst (b : Block) (m : Mode) : (b.setMode m).hyst = b.hyst := rfl
@[simp] theorem Block.setMode_high (b : Block) (m : Mode) : (b.setMode m).high = b.high := rfl
@[simp] theorem Block.setMode_low (b : Block) (m : Mode) : (b.setMode m).low = b.low := rfl
@[simp] theorem Block.setMode_unit (b : Block) (m : Mode) : (b.setMode m).unit = b.unit := rfl
@[simp] theorem Block.setMode_ticking (b : Block) (m : Mode) : (b.setMode m).ticking = b.ticking := rfl
@[simp] theorem Block.setMode_error (b : Block) (m : Mode) : (b.setMode m).error = b.error := rfl
@[simp] theorem Block.setMode_history (b : Block) (m : Mode) : (b.setMode m).history = b.history := rfl

/-! ### `setState` -/

@[simp] theorem Block.setState_snPhase (b : Block) (q : CtlState) : (b.setState q).snPhase = b.snPhase := rfl
@[simp] theorem Block.setState_brPhase (b : Block) (q : CtlState) : (b.setState q).brPhase = b.brPhase := rfl
@[simp] theorem Block.setState_lastStatus (b : Block) (q : CtlState) : (b.setState q).lastStatus = b.lastStatus := rfl
@[simp] theorem Block.setState_cfgShadow (b : Block) (q : CtlState) : (b.setState q).cfgShadow = b.cfgShadow := rfl
@[simp] theorem Block.setState_rom (b : Block) (q : CtlState) : (b.setState q).rom = b.rom := rfl
@[simp] theorem Block.setState_sp (b : Block) (q : CtlState) : (b.setState q).sp = b.sp := rfl
@[simp] theorem Block.setState_resolution (b : Block) (q : CtlState) : (b.setState q).resolution = b.resolution := rfl
@[simp] theorem Block.setState_parasitic (b : Block) (q : CtlState) : (b.setState q).parasitic = b.parasitic := rfl
@[simp] theorem Block.setState_initialized (b : Block) (q : CtlState) : (b.setState q).initialized = b.initialized := rfl
@[simp] theorem Block.setState_lastReading (b : Block) (q : CtlState) : (b.setState q).lastReading = b.lastReading := rfl
@[simp] theorem Block.setState_win (b : Block) (q : CtlState) : (b.setState q).win = b.win := rfl
@[simp] theorem Block.setState_len (b : Block) (q : CtlState) : (b.setState q).len = b.len := rfl
@[simp] theorem Block.setState_sum (b : Block) (q : CtlState) : (b.setState q).sum = b.sum := rfl
@[simp] theorem Block.setState_mode (b : Block) (q : CtlState) : (b.setState q).mode = b.mode := rfl
@[simp] theorem Block.setState_state (b : Block) (q : CtlState) : (b.setState q).state = q := rfl
@[simp] theorem Block.setState_drive (b : Block) (q : CtlState) : (b.setState q).drive = b.drive := rfl
@[simp] theorem Block.setState_target (b : Block) (q : CtlState) : (b.setState q).target = b.target := rfl
@[simp] theorem Block.setState_hyst (b : Block) (q : CtlState) : (b.setState q).hyst = b.hyst := rfl
@[simp] theorem Block.setState_high (b : Block) (q : CtlState) : (b.setState q).high = b.high := rfl
@[simp] theorem Block.setState_low (b : Block) (q : CtlState) : (b.setState q).low = b.low := rfl
@[simp] theorem Block.setState_unit (b : Block) (q : CtlState) : (b.setState q).unit = b.unit := rfl
@[simp] theorem Block.setState_ticking (b : Block) (q : CtlState) : (b.setState q).ticking = b.ticking := rfl
@[simp] theorem Block.setState_error (b : Block) (q : CtlState) : (b.setState q).error = b.error := rfl
@[simp] theorem Block.setState_history (b : Block) (q : CtlState) : (b.setState q).history = b.history := rfl

/-! ### `setSetpoint` -/

@[simp] theorem Block.setSetpoint_snPhase (b : Block) (t h : Temp) : (b.setSetpoint t h).snPhase = b.snPhase := rfl
@[simp] theorem Block.setSetpoint_brPhase (b : Block) (t h : Temp) : (b.setSetpoint t h).brPhase = b.brPhase := rfl
@[simp] theorem Block.setSetpoint_lastStatus (b : Block) (t h : Temp) : (b.setSetpoint t h).lastStatus = b.lastStatus := rfl
@[simp] theorem Block.setSetpoint_cfgShadow (b : Block) (t h : Temp) : (b.setSetpoint t h).cfgShadow = b.cfgShadow := rfl
@[simp] theorem Block.setSetpoint_rom (b : Block) (t h : Temp) : (b.setSetpoint t h).rom = b.rom := rfl
@[simp] theorem Block.setSetpoint_sp (b : Block) (t h : Temp) : (b.setSetpoint t h).sp = b.sp := rfl
@[simp] theorem Block.setSetpoint_resolution (b : Block) (t h : Temp) : (b.setSetpoint t h).resolution = b.resolution := rfl
@[simp] theorem Block.setSetpoint_parasitic (b : Block) (t h : Temp) : (b.setSetpoint t h).parasitic = b.parasitic := rfl
@[simp] theorem Block.setSetpoint_initialized (b : Block) (t h : Temp) : (b.setSetpoint t h).initialized = b.initialized := rfl
@[simp] theorem Block.setSetpoint_lastReading (b : Block) (t h : Temp) : (b.setSetpoint t h).lastReading = b.lastReading := rfl
@[simp] theorem Block.setSetpoint_win (b : Block) (t h : Temp) : (b.setSetpoint t h).win = b.win := rfl
@[simp] theorem Block.setSetpoint_len (b : Block) (t h : Temp) : (b.setSetpoint t h).len = b.len := rfl
@[simp] theorem Block.setSetpoint_sum (b : Block) (t h : Temp) : (b.setSetpoint t h).sum = b.sum := rfl
@[simp] theorem Block.setSetpoint_mode (b : Block) (t h : Temp) : (b.setSetpoint t h).mode = b.mode := rfl
@[simp] theorem Block.setSetpoint_state (b : Block) (t h : Temp) : (b.setSetpoint t h).state = b.state := rfl
@[simp] theorem Block.setSetpoint_drive (b : Block) (t h : Temp) : (b.setSetpoint t h).drive = b.drive := rfl
@[simp] theorem Block.setSetpoint_target (b : Block) (t h : Temp) : (b.setSetpoint t h).target = t := rfl
@[simp] theorem Block.setSetpoint_hyst (b : Block) (t h : Temp) : (b.setSetpoint t h).hyst = h := rfl
@[simp] theorem Block.setSetpoint_high (b : Block) (t h : Temp) : (b.setSetpoint t h).high = t + h := rfl
@[simp] theorem Block.setSetpoint_low (b : Block) (t h : Temp) : (b.setSetpoint t h).low = t - h := rfl
@[simp] theorem Block.setSetpoint_unit (b : Block) (t h : Temp) : (b.setSetpoint t h).unit = b.unit := rfl
@[simp] theorem Block.setSetpoint_ticking (b : Block) (t h : Temp) : (b.setSetpoint t h).ticking = b.ticking := rfl
@[simp] theorem Block.setSetpoint_error (b : Block) (t h : Temp) : (b.setSetpoint t h).error = b.error := rfl
@[simp] theorem Block.setSetpoint_history (b : Block) (t h : Temp) : (b.setSetpoint t h).history = b.history := rfl

/-! ### `setUnit` -/

@[simp] theorem Block.setUnit_snPhase (b : Block) (u : TempUnit) : (b.setUnit u).snPhase = b.snPhase := rfl
@[simp] theorem Block.setUnit_brPhase (b : Block) (u : TempUnit) : (b.setUnit u).brPhase = b.brPhase := rfl
@[simp] theorem Block.setUnit_lastStatus (b : Block) (u : TempUnit) : (b.setUnit u).lastStatus = b.lastStatus := rfl
@[simp] theorem Block.setUnit_cfgShadow (b : Block) (u : TempUnit) : (b.setUnit u).cfgShadow = b.cfgShadow := rfl
@[simp] theorem Block.setUnit_rom (b : Block) (u : TempUnit) : (b.setUnit u).rom = b.rom := rfl
@[simp] theorem Block.setUnit_sp (b : Block) (u : TempUnit) : (b.setUnit u).sp = b.sp := rfl
@[simp] theorem Block.setUnit_resolution (b : Block) (u : TempUnit) : (b.setUnit u).resolution = b.resolution := rfl
@[simp] theorem Block.setUnit_parasitic (b : Block) (u : TempUnit) : (b.setUnit u).parasitic = b.parasitic := rfl
@[simp] theorem Block.setUnit_initialized (b : Block) (u : TempUnit) : (b.setUnit u).initialized = b.initialized := rfl
@[simp] theorem Block.setUnit_lastReading (b : Block) (u : TempUnit) : (b.setUnit u).lastReading = b.lastReading := rfl
@[simp] theorem Block.setUnit_win (b : Block) (u : TempUnit) : (b.setUnit u).win = b.win := rfl
@[simp] theorem Block.setUnit_len (b : Block) (u : TempUnit) : (b.setUnit u).len = b.len := rfl
@[simp] theorem Block.setUnit_sum (b : Block) (u : TempUnit) : (b.setUnit u).sum = b.sum := rfl
@[simp] theorem Block.setUnit_mode (b : Block) (u : TempUnit) : (b.setUnit u).mode = b.mode := rfl
@[simp] theorem Block.setUnit_state (b : Block) (u : TempUnit) : (b.setUnit u).state = b.state := rfl
@[simp] theorem Block.setUnit_drive (b : Block) (u : TempUnit) : (b.setUnit u).drive = b.drive := rfl
@[simp] theorem Block.setUnit_target (b : Block) (u : TempUnit) : (b.setUnit u).target = b.target := rfl
@[simp] theorem Block.setUnit_hyst (b : Block) (u : TempUnit) : (b.setUnit u).hyst = b.hyst := rfl
@[simp] theorem Block.setUnit_high (b : Block) (u : TempUnit) : (b.setUnit u).high = b.high := rfl
@[simp] theorem Block.setUnit_low (b : Block) (u : TempUnit) : (b.setUnit u).low = b.low := rfl
@[simp] theorem Block.setUnit_unit (b : Block) (u : TempUnit) : (b.setUnit u).unit = u := rfl
@[simp] theorem Block.setUnit_ticking (b : Block) (u : TempUnit) : (b.setUnit u).ticking = b.ticking := rfl
@[simp] theorem Block.setUnit_error (b : Block) (u : TempUnit) : (b.setUnit u).error = b.error := rfl
@[simp] theorem Block.setUnit_history (b : Block) (u : TempUnit) : (b.setUnit u).history = b.history := rfl

/-! ### `commitInit` -/

@[simp] theorem Block.commitInit_snPhase (b : Block) (r : Vector Byte 8) (p : Bool) (c : ResCode) : (b.commitInit r p c).snPhase = b.snPhase := rfl
@[simp] theorem Block.commitInit_brPhase (b : Block) (r : Vector Byte 8) (p : Bool) (c : ResCode) : (b.commitInit r p c).brPhase = b.brPhase := rfl
@[simp] theorem Block.commitInit_lastStatus (b : Block) (r : Vector Byte 8) (p : Bool) (c : ResCode) : (b.commitInit r p c).lastStatus = b.lastStatus := rfl
@[simp] theorem Block.commitInit_cfgShadow (b : Block) (r : Vector Byte 8) (p : Bool) (c : ResCode) : (b.commitInit r p c).cfgShadow = b.cfgShadow := rfl
@[simp] theorem Block.commitInit_rom (b : Block) (r : Vector Byte 8) (p : Bool) (c : ResCode) : (b.commitInit r p c).rom = some r := rfl
@[simp] theorem Block.commitInit_sp (b : Block) (r : Vector Byte 8) (p : Bool) (c : ResCode) : (b.commitInit r p c).sp = b.sp := rfl
@[simp] theorem Block.commitInit_resolution (b : Block) (r : Vector Byte 8) (p : Bool) (c : ResCode) : (b.commitInit r p c).resolution = some c := rfl
@[simp] theorem Block.commitInit_parasitic (b : Block) (r : Vector Byte 8) (p : Bool) (c : ResCode) : (b.commitInit r p c).parasitic = some p := rfl
@[simp] theorem Block.commitInit_initialized (b : Block) (r : Vector Byte 8) (p : Bool) (c : ResCode) : (b.commitInit r p c).initialized = true := rfl
@[simp] theorem Block.commitInit_lastReading (b : Block) (r : Vector Byte 8) (p : Bool) (c : ResCode) : (b.commitInit r p c).lastReading = b.lastReading := rfl
@[simp] theorem Block.commitInit_win (b : Block) (r : Vector Byte 8) (p : Bool) (c : ResCode) : (b.commitInit r p c).win = b.win := rfl
@[simp] theorem Block.commitInit_len (b : Block) (r : Vector Byte 8) (p : Bool) (c : ResCode) : (b.commitInit r p c).len = b.len := rfl
@[simp] theorem Block.commitInit_sum (b : Block) (r : Vector Byte 8) (p : Bool) (c : ResCode) : (b.commitInit r p c).sum = b.sum := rfl
@[simp] theorem Block.commitInit_mode (b : Block) (r : Vector Byte 8) (p : Bool) (c : ResCode) : (b.commitInit r p c).mode = b.mode := rfl
@[simp] theorem Block.commitInit_state (b : Block) (r : Vector Byte 8) (p : Bool) (c : ResCode) : (b.commitInit r p c).state = b.state := rfl
@[simp] theorem Block.commitInit_drive (b : Block) (r : Vector Byte 8) (p : Bool) (c : ResCode) : (b.commitInit r p c).drive = b.drive := rfl
@[simp] theorem Block.commitInit_target (b : Block) (r : Vector Byte 8) (p : Bool) (c : ResCode) : (b.commitInit r p c).target = b.target := rfl
@[simp] theorem Block.commitInit_hyst (b : Block) (r : Vector Byte 8) (p : Bool) (c : ResCode) : (b.commitInit r p c).hyst = b.hyst := rfl
@[simp] theorem Block.commitInit_high (b : Block) (r : Vector Byte 8) (p : Bool) (c : ResCode) : (b.commitInit r p c).high = b.high := rfl
@[simp] theorem Block.commitInit_low (b : Block) (r : Vector Byte 8) (p : Bool) (c : ResCode) : (b.commitInit r p c).low = b.low := rfl
@[simp] theorem Block.commitInit_unit (b : Block) (r : Vector Byte 8) (p : Bool) (c : ResCode) : (b.commitInit r p c).unit = b.unit := rfl
@[simp] theorem Block.commitInit_ticking (b : Block) (r : Vector Byte 8) (p : Bool) (c : ResCode) : (b.commitInit r p c).ticking = b.ticking := rfl
@[simp] theorem Block.commitInit_error (b : Block) (r : Vector Byte 8) (p : Bool) (c : ResCode) : (b.commitInit r p c).error = b.error := rfl
@[simp] theorem Block.commitInit_history (b : Block) (r : Vector Byte 8) (p : Bool) (c : ResCode) : (b.commitInit r p c).history = b.history := rfl

/-! ### `putDrive` -/

@[simp] theorem Block.putDrive_snPhase (b : Block) (d : Drive) : (b.putDrive d).snPhase = b.snPhase := rfl
@[simp] theorem Block.putDrive_brPhase (b : Block) (d : Drive) : (b.putDrive d).brPhase = b.brPhase := rfl
@[simp] theorem Block.putDrive_lastStatus (b : Block) (d : Drive) : (b.putDrive d).lastStatus = b.lastStatus := rfl
@[simp] theorem Block.putDrive_cfgShadow (b : Block) (d : Drive) : (b.putDrive d).cfgShadow = b.cfgShadow := rfl
@[simp] theorem Block.putDrive_rom (b : Block) (d : Drive) : (b.putDrive d).rom = b.rom := rfl
@[simp] theorem Block.putDrive_sp (b : Block) (d : Drive) : (b.putDrive d).sp = b.sp := rfl
@[simp] theorem Block.putDrive_resolution (b : Block) (d : Drive) : (b.putDrive d).resolution = b.resolution := rfl
@[simp] theorem Block.putDrive_parasitic (b : Block) (d : Drive) : (b.putDrive d).parasitic = b.parasitic := rfl
@[simp] theorem Block.putDrive_initialized (b : Block) (d : Drive) : (b.putDrive d).initialized = b.initialized := rfl
@[simp] theorem Block.putDrive_lastReading (b : Block) (d : Drive) : (b.putDrive d).lastReading = b.lastReading := rfl
@[simp] theorem Block.putDrive_win (b : Block) (d : Drive) : (b.putDrive d).win = b.win := rfl
@[simp] theorem Block.putDrive_len (b : Block) (d : Drive) : (b.putDrive d).len = b.len := rfl
@[simp] theorem Block.putDrive_sum (b : Block) (d : Drive) : (b.putDrive d).sum = b.sum := rfl
@[simp] theorem Block.putDrive_mode (b : Block) (d : Drive) : (b.putDrive d).mode = b.mode := rfl
@[simp] theorem Block.putDrive_state (b : Block) (d : Drive) : (b.putDrive d).state = b.state := rfl
@[simp] theorem Block.putDrive_drive (b : Block) (d : Drive) : (b.putDrive d).drive = d := rfl
@[simp] theorem Block.putDrive_target (b : Block) (d : Drive) : (b.putDrive d).target = b.target := rfl
@[simp] theorem Block.putDrive_hyst (b : Block) (d : Drive) : (b.putDrive d).hyst = b.hyst := rfl
@[simp] theorem Block.putDrive_high (b : Block) (d : Drive) : (b.putDrive d).high = b.high := rfl
@[simp] theorem Block.putDrive_low (b : Block) (d : Drive) : (b.putDrive d).low = b.low := rfl
@[simp] theorem Block.putDrive_unit (b : Block) (d : Drive) : (b.putDrive d).unit = b.unit := rfl
@[simp] theorem Block.putDrive_ticking (b : Block) (d : Drive) : (b.putDrive d).ticking = b.ticking := rfl
@[simp] theorem Block.putDrive_error (b : Block) (d : Drive) : (b.putDrive d).error = b.error := rfl
@[simp] theorem Block.putDrive_history (b : Block) (d : Drive) : (b.putDrive d).history = if b.drive = d then b.history else b.history ++ [.drive d] := rfl

/-! ### `safeState` -/

@[simp] theorem Block.safeState_snPhase (b : Block) (e : Err) : (b.safeState e).snPhase = b.snPhase := rfl
@[simp] theorem Block.safeState_brPhase (b : Block) (e : Err) : (b.safeState e).brPhase = b.brPhase := rfl
@[simp] theorem Block.safeState_lastStatus (b : Block) (e : Err) : (b.safeState e).lastStatus = b.lastStatus := rfl
@[simp] theorem Block.safeState_cfgShadow (b : Block) (e : Err) : (b.safeState e).cfgShadow = b.cfgShadow := rfl
@[simp] theorem Block.safeState_rom (b : Block) (e : Err) : (b.safeState e).rom = b.rom := rfl
@[simp] theorem Block.safeState_sp (b : Block) (e : Err) : (b.safeState e).sp = b.sp := rfl
@[simp] theorem Block.safeState_resolution (b : Block) (e : Err) : (b.safeState e).resolution = b.resolution := rfl
@[simp] theorem Block.safeState_parasitic (b : Block) (e : Err) : (b.safeState e).parasitic = b.parasitic := rfl
@[simp] theorem Block.safeState_initialized (b : Block) (e : Err) : (b.safeState e).initialized = b.initialized := rfl
@[simp] theorem Block.safeState_lastReading (b : Block) (e : Err) : (b.safeState e).lastReading = b.lastReading := rfl
@[simp] theorem Block.safeState_win (b : Block) (e : Err) : (b.safeState e).win = b.win := rfl
@[simp] theorem Block.safeState_len (b : Block) (e : Err) : (b.safeState e).len = b.len := rfl
@[simp] theorem Block.safeState_sum (b : Block) (e : Err) : (b.safeState e).sum = b.sum := rfl
@[simp] theorem Block.safeState_mode (b : Block) (e : Err) : (b.safeState e).mode = b.mode := rfl
@[simp] theorem Block.safeState_state (b : Block) (e : Err) : (b.safeState e).state = b.state := rfl
@[simp] theorem Block.safeState_drive (b : Block) (e : Err) : (b.safeState e).drive = .off := rfl
@[simp] theorem Block.safeState_target (b : Block) (e : Err) : (b.safeState e).target = b.target := rfl
@[simp] theorem Block.safeState_hyst (b : Block) (e : Err) : (b.safeState e).hyst = b.hyst := rfl
@[simp] theorem Block.safeState_high (b : Block) (e : Err) : (b.safeState e).high = b.high := rfl
@[simp] theorem Block.safeState_low (b : Block) (e : Err) : (b.safeState e).low = b.low := rfl
@[simp] theorem Block.safeState_unit (b : Block) (e : Err) : (b.safeState e).unit = b.unit := rfl
@[simp] theorem Block.safeState_ticking (b : Block) (e : Err) : (b.safeState e).ticking = false := rfl
@[simp] theorem Block.safeState_error (b : Block) (e : Err) : (b.safeState e).error = e := rfl
@[simp] theorem Block.safeState_history (b : Block) (e : Err) : (b.safeState e).history = (b.putDrive .off).history ++ [.notify (.fatalError e)] := rfl

/-! ### `restart` -/

@[simp] theorem Block.restart_snPhase (b : Block) : (b.restart).snPhase = b.snPhase := rfl
@[simp] theorem Block.restart_brPhase (b : Block) : (b.restart).brPhase = b.brPhase := rfl
@[simp] theorem Block.restart_lastStatus (b : Block) : (b.restart).lastStatus = b.lastStatus := rfl
@[simp] theorem Block.restart_cfgShadow (b : Block) : (b.restart).cfgShadow = b.cfgShadow := rfl
@[simp] theorem Block.restart_rom (b : Block) : (b.restart).rom = b.rom := rfl
@[simp] theorem Block.restart_sp (b : Block) : (b.restart).sp = b.sp := rfl
@[simp] theorem Block.restart_resolution (b : Block) : (b.restart).resolution = b.resolution := rfl
@[simp] theorem Block.restart_parasitic (b : Block) : (b.restart).parasitic = b.parasitic := rfl
@[simp] theorem Block.restart_initialized (b : Block) : (b.restart).initialized = b.initialized := rfl
@[simp] theorem Block.restart_lastReading (b : Block) : (b.restart).lastReading = b.lastReading := rfl
@[simp] theorem Block.restart_win (b : Block) : (b.restart).win = b.win := rfl
@[simp] theorem Block.restart_len (b : Block) : (b.restart).len = b.len := rfl
@[simp] theorem Block.restart_sum (b : Block) : (b.restart).sum = b.sum := rfl
@[simp] theorem Block.restart_mode (b : Block) : (b.restart).mode = b.mode := rfl
@[simp] theorem Block.restart_state (b : Block) : (b.restart).state = b.state := rfl
@[simp] theorem Block.restart_drive (b : Block) : (b.restart).drive = b.drive := rfl
@[simp] theorem Block.restart_target (b : Block) : (b.restart).target = b.target := rfl
@[simp] theorem Block.restart_hyst (b : Block) : (b.restart).hyst = b.hyst := rfl
@[simp] theorem Block.restart_high (b : Block) : (b.restart).high = b.high := rfl
@[simp] theorem Block.restart_low (b : Block) : (b.restart).low = b.low := rfl
@[simp] theorem Block.restart_unit (b : Block) : (b.restart).unit = b.unit := rfl
@[simp] theorem Block.restart_ticking (b : Block) : (b.restart).ticking = true := rfl
@[simp] theorem Block.restart_error (b : Block) : (b.restart).error = .noError := rfl
@[simp] theorem Block.restart_history (b : Block) : (b.restart).history = b.history := rfl

end Sys2Proof.Machine
end

