-- ==== Sys2Proof/Laws/Filter.lean ====
section
/-! SUPPORT. What recording a sample and evaluating the controller do, one lemma each. -/

namespace Sys2Proof.Machine

/-- Recording below the capacity appends; at the capacity it also drops the oldest (rule R161). -/
theorem Block.record_eq (p : Params) (b : Block) (sample : Temp) : b.record p sample =
    (let x := roundT p (toUnit sample b.unit)
     if b.win.length < 16 then b.setWindow (b.win ++ [x]) (b.sum + x)
     else b.setWindow (b.win.drop 1 ++ [x]) (b.sum + x - b.win.headD 0)) := by
  unfold Block.record
  cases hw : b.win with
  | nil => simp [Config.windowCap]
  | cons o rest =>
    by_cases h : rest.length + 1 < 16
    · have h' : ¬ 16 < rest.length + 1 + 1 := by omega
      simp [h, h', Config.windowCap]
    · have h' : 16 < rest.length + 1 + 1 := by omega
      simp [h, h', Config.windowCap]

/-- All that recording writes: the window, its length and its sum; and the window is not empty afterwards. -/
theorem Block.record_setWindow (p : Params) (b : Block) (sample : Temp) :
    ∃ win sum, win ≠ [] ∧ b.record p sample = b.setWindow win sum := by
  rw [Block.record_eq]
  dsimp only
  split
  · exact ⟨_, _, by simp, rfl⟩
  · exact ⟨_, _, by simp, rfl⟩

/-- A window that is not empty has an average (rule R162). -/
theorem Block.average_setWindow (b : Block) (win : List Temp) (sum : Temp) (h : win ≠ []) :
    (b.setWindow win sum).average = some (sum / win.length) := by
  simp [Block.average, Block.setWindow, h]

/-- Emptying the window (rule R163). -/
@[simp] theorem Block.average_clearWindow (b : Block) : b.clearWindow.average = none := rfl

/-- One of the four arms of rule R171 is taken: the state after is one of the three legal ones, or the one
before. -/
theorem nextState_cases (m : Mode) (q : CtlState) (avg target high low : Temp) :
    nextState m q avg target high low = .cooling ∨ nextState m q avg target high low = .heating
    ∨ nextState m q avg target high low = .idle ∨ nextState m q avg target high low = q := by
  unfold nextState
  split
  · exact .inl rfl
  · split
    · exact .inr (.inl rfl)
    · split
      · exact .inr (.inr (.inl rfl))
      · exact .inr (.inr (.inr rfl))

/-- A legal state is followed by a legal state. -/
theorem nextState_legal {m : Mode} {q : CtlState} {avg target high low : Temp} (h : q ≠ .reserved) :
    nextState m q avg target high low ≠ .reserved := by
  rcases nextState_cases m q avg target high low with e | e | e | e <;> rw [e] <;> first | exact h | exact nofun

/-- The outputs for a state are one of the three legal drive codes (rules R88, R175). -/
theorem driveOf_legal (q : CtlState) : driveOf q ≠ .reserved := by cases q <;> exact nofun

/-- Cycling forward through the modes (rule R184). -/
@[simp] theorem Mode.next_eq (m : Mode) : m.next = match m with
    | .off => .cool | .cool => .heat | .heat => .hold | .hold => .off := by cases m <;> rfl

/-- Cycling backward through the modes (rule R185). -/
@[simp] theorem Mode.prev_eq (m : Mode) : m.prev = match m with
    | .off => .hold | .cool => .off | .heat => .cool | .hold => .heat := by cases m <;> rfl

end Sys2Proof.Machine
end

