-- ==== Sys2Proof/Laws/Ops.lean ====
section
/-! SUPPORT. What the statements of an operation do, one lemma each: sequencing, the bus primitives, the
helpers, and the ways an operation can end when it is performed. -/

namespace Sys2Proof.Machine

variable {α β : Type}

/-! ## Sequencing -/

theorem Op.bind_apply (x : Op α) (f : α → Op β) (c : Ctx) :
    (x >>= f) c = match x c with
      | .ok a c' => f a c'
      | .error h c' => .error h c' := by
  show EStateM.bind x f c = _
  unfold EStateM.bind
  cases x c <;> rfl

theorem Op.map_apply (g : α → β) (x : Op α) (c : Ctx) :
    (g <$> x) c = match x c with
      | .ok a c' => .ok (g a) c'
      | .error h c' => .error h c' := by
  show EStateM.map g x c = _
  unfold EStateM.map
  cases x c <;> rfl

@[simp] theorem Op.pure_apply (a : α) (c : Ctx) : (pure a : Op α) c = .ok a c := rfl

theorem Op.bind_ok {x : Op α} {f : α → Op β} {c c' : Ctx} {a : α} (h : x c = .ok a c') :
    (x >>= f) c = f a c' := by rw [Op.bind_apply, h]

theorem Op.bind_error {x : Op α} {f : α → Op β} {c c' : Ctx} {e : Halt} (h : x c = .error e c') :
    (x >>= f) c = .error e c' := by rw [Op.bind_apply, h]

@[simp] theorem update_apply (f : Block → Block) (c : Ctx) :
    update f c = .ok () ⟨f c.block, c.answers⟩ := rfl

@[simp] theorem look_apply (c : Ctx) : look c = .ok c.block c := rfl

@[simp] theorem raise_apply (e : Err) (c : Ctx) :
    (raise e : Op α) c = .error (.raised e) ⟨c.block.idlePhases, c.answers⟩ := rfl

@[simp] theorem require_true (e : Err) (c : Ctx) : require true e c = .ok () c := rfl

@[simp] theorem require_false (e : Err) (c : Ctx) :
    require false e c = .error (.raised e) ⟨c.block.idlePhases, c.answers⟩ := rfl

@[simp] theorem present_some (r : Absent) (a : α) (c : Ctx) : present r (some a) c = .ok a c := rfl

@[simp] theorem present_none (r : Absent) (c : Ctx) :
    (present r none : Op α) c = .error (.stopped (.noValue r)) c := rfl

/-! ## The bus primitives -/

@[simp] theorem busWrite_reply (bytes : List Byte) (b : Block) (ack : Byte) (rest : List Answer) :
    busWrite bytes ⟨b, .reply ack :: rest⟩ = .ok () ⟨b.emit (.busWrite bytes true), rest⟩ := rfl

@[simp] theorem busWrite_timeout (bytes : List Byte) (b : Block) (rest : List Answer) :
    busWrite bytes ⟨b, .timeout :: rest⟩
      = .error (.raised .transportTimeout) ⟨(b.emit (.busWrite bytes false)).idlePhases, rest⟩ := rfl

@[simp] theorem busWrite_silent (bytes : List Byte) (b : Block) :
    busWrite bytes ⟨b, []⟩ = .error .waiting ⟨b, []⟩ := rfl

@[simp] theorem busRead_reply (b : Block) (d : Byte) (rest : List Answer) :
    busRead ⟨b, .reply d :: rest⟩ = .ok d ⟨b.emit (.busRead (some d)), rest⟩ := rfl

@[simp] theorem busRead_timeout (b : Block) (rest : List Answer) :
    busRead ⟨b, .timeout :: rest⟩
      = .error (.raised .transportTimeout) ⟨(b.emit (.busRead none)).idlePhases, rest⟩ := rfl

@[simp] theorem busRead_silent (b : Block) : busRead ⟨b, []⟩ = .error .waiting ⟨b, []⟩ := rfl

@[simp] theorem delay_answer (ms : ℚ) (b : Block) (a : Answer) (rest : List Answer) :
    delay ms ⟨b, a :: rest⟩ = .ok () ⟨b.emit (.delay ms), rest⟩ := rfl

@[simp] theorem delay_silent (ms : ℚ) (b : Block) : delay ms ⟨b, []⟩ = .error .waiting ⟨b, []⟩ := rfl

@[simp] theorem status_reply (b : Block) (s : Byte) (rest : List Answer) :
    status ⟨b, .reply s :: rest⟩ = .ok s ⟨(b.emit (.busRead (some s))).setLastStatus s, rest⟩ := rfl

@[simp] theorem status_timeout (b : Block) (rest : List Answer) :
    status ⟨b, .timeout :: rest⟩
      = .error (.raised .transportTimeout) ⟨(b.emit (.busRead none)).idlePhases, rest⟩ := rfl

@[simp] theorem status_silent (b : Block) : status ⟨b, []⟩ = .error .waiting ⟨b, []⟩ := rfl

/-! ## The busy-poll -/

/-- The loop of rule R117 as the pseudocode writes it: one status read, and again while it says busy. -/
theorem poll_unroll : poll = (do let s ← status; if stBusy s then poll else pure ()) := by
  funext c
  obtain ⟨b, as⟩ := c
  cases as with
  | nil => rfl
  | cons a as =>
    cases a with
    | timeout => rfl
    | reply s => cases h : stBusy s <;> simp [poll, pollFrom, Op.bind_apply, h]

/-- The registers after the statuses `ss` have been read. -/
def Block.polled (b : Block) (ss : List Byte) : Block :=
  ss.foldl (fun b s => (b.emit (readEvent s)).setLastStatus s) b

theorem Block.polled_eq (b : Block) (ss : List Byte) :
    b.polled ss = { b with
      lastStatus := laterOf b.lastStatus ss.getLast?, history := b.history ++ ss.map readEvent } := by
  induction ss generalizing b with
  | nil => simp [Block.polled, laterOf]
  | cons s ss ih =>
    rw [Block.polled, List.foldl_cons, ← Block.polled, ih]
    cases ss with
    | nil => simp [laterOf]
    | cons t ss => simp [laterOf, List.getLast?_cons]

/-- A poll that sees busy statuses and then one that is not reads each of them once and ends. -/
theorem poll_good (b : Block) (busy : List Byte) (last : Byte) (rest : List Answer)
    (hb : busy.all stBusy = true) (hl : stBusy last = false) :
    poll ⟨b, busy.map .reply ++ .reply last :: rest⟩ = .ok () ⟨b.polled (busy ++ [last]), rest⟩ := by
  induction busy generalizing b with
  | nil => simp [poll, pollFrom, hl, Block.polled, readEvent]
  | cons s busy ih =>
    simp only [List.all_cons, Bool.and_eq_true] at hb
    have := ih ((b.emit (readEvent s)).setLastStatus s) hb.2
    simpa [poll, pollFrom, hb.1, Block.polled, readEvent] using this

/-- A poll that has seen only busy statuses is not over (rules R117, R252): it waits for a further answer. -/
theorem poll_busy (b : Block) (busy : List Byte) (hb : busy.all stBusy = true) :
    poll ⟨b, busy.map .reply⟩ = .error .waiting ⟨b.polled busy, []⟩ := by
  induction busy generalizing b with
  | nil => rfl
  | cons s busy ih =>
    simp only [List.all_cons, Bool.and_eq_true] at hb
    have := ih ((b.emit (readEvent s)).setLastStatus s) hb.2
    simpa [poll, pollFrom, hb.1, Block.polled, readEvent] using this

/-- A poll whose next status read times out ends in the transport error (rule R117). -/
theorem poll_timeout (b : Block) (busy : List Byte) (rest : List Answer) (hb : busy.all stBusy = true) :
    poll ⟨b, busy.map .reply ++ .timeout :: rest⟩
      = .error (.raised .transportTimeout) ⟨((b.polled busy).emit (.busRead none)).idlePhases, rest⟩ := by
  induction busy generalizing b with
  | nil => rfl
  | cons s busy ih =>
    simp only [List.all_cons, Bool.and_eq_true] at hb
    have := ih ((b.emit (readEvent s)).setLastStatus s) hb.2
    simpa [poll, pollFrom, hb.1, Block.polled, readEvent] using this

/-! ## Performing an operation -/

@[simp] theorem takeAnswers_answers (as : List Answer) :
    takeAnswers (as.map .answer) = (as, []) := by
  induction as with
  | nil => rfl
  | cons a as ih => simp [takeAnswers, ih]

theorem takeAnswers_append (as : List Answer) (later : List Stimulus) :
    takeAnswers (as.map .answer ++ later) = (as ++ (takeAnswers later).1, (takeAnswers later).2) := by
  induction as with
  | nil => simp
  | cons a as ih => simp [takeAnswers, ih]

/-- Splitting off the answers loses nothing. -/
theorem takeAnswers_join (l : List Stimulus) :
    (takeAnswers l).1.map .answer ++ (takeAnswers l).2 = l := by
  induction l with
  | nil => rfl
  | cons x l ih => cases x <;> simp [takeAnswers, ih]

/-- All a performed operation can come to: it returned and its result is handed back, it raised and the
safe state was entered, it waits for an answer, or it read a register that holds no value. -/
theorem perform_cases {i : Instr} {reports : Bool} {op : Op (Option Value)} {s : State} :
    (∃ v c, op ⟨s.block, (takeAnswers s.outside).1⟩ = .ok v c ∧ perform i reports op s = .next { s with
        block := c.block, busy := none,
        outside := c.answers.map .answer ++ (takeAnswers s.outside).2,
        result := if reports then some ⟨.noError, v⟩ else s.result })
    ∨ (∃ e c, op ⟨s.block, (takeAnswers s.outside).1⟩ = .error (.raised e) c ∧ perform i reports op s = .next { s with
        block := c.block.safeState e, busy := none,
        outside := c.answers.map .answer ++ (takeAnswers s.outside).2,
        result := if reports then some ⟨e, none⟩ else s.result })
    ∨ (∃ c, op ⟨s.block, (takeAnswers s.outside).1⟩ = .error .waiting c ∧ perform i reports op s = .next { s with
        block := c.block, busy := some ⟨i, s.block, (takeAnswers s.outside).1⟩,
        outside := (takeAnswers s.outside).2 })
    ∨ (∃ f c, op ⟨s.block, (takeAnswers s.outside).1⟩ = .error (.stopped f) c
        ∧ perform i reports op s = .fault f) := by
  unfold perform
  rcases h : op ⟨s.block, (takeAnswers s.outside).1⟩ with ⟨v, c⟩ | ⟨e, c⟩
  · exact .inl ⟨v, c, rfl, by simp [h]⟩
  · cases e with
    | raised e => exact .inr (.inl ⟨e, c, rfl, by simp [h]⟩)
    | waiting => exact .inr (.inr (.inl ⟨c, rfl, by simp [h]⟩))
    | stopped f => exact .inr (.inr (.inr ⟨f, c, rfl, by simp [h]⟩))

end Sys2Proof.Machine
end

