-- ==== Sys2Proof/Laws/Outcomes.lean ====
section
/-! SUPPORT. How an operation can end, from which registers to which: `Op.Ends` with one rule per statement,
`Op.Within` for the operations that touch only the bus registers, and that fact for every operation of the
bridge and sensor drivers. -/

namespace Sys2Proof.Machine

variable {α β : Type}

/-! ## How an operation can end -/

/-- A run came to a value and registers that satisfy `ok`, or ended without returning at registers that satisfy
`bad`. -/
def Op.Ended (r : EStateM.Result Halt Ctx α) (ok : α → Block → Prop) (bad : Halt → Block → Prop) : Prop :=
  match r with
  | .ok a c => ok a c.block
  | .error h c => bad h c.block

/-- From registers `b`, whatever the environment answers, `x` returns a value and registers that satisfy `ok`,
or ends without returning at registers that satisfy `bad`. -/
def Op.Ends (x : Op α) (b : Block) (ok : α → Block → Prop) (bad : Halt → Block → Prop) : Prop :=
  ∀ as, Op.Ended (x ⟨b, as⟩) ok bad

theorem Op.ends_pure {a : α} {b : Block} {ok : α → Block → Prop} {bad : Halt → Block → Prop}
    (h : ok a b) : Op.Ends (pure a) b ok bad := fun _ => h

theorem Op.ends_bind {x : Op α} {f : α → Op β} {b : Block} {ok : β → Block → Prop}
    {bad : Halt → Block → Prop} (h : x.Ends b (fun a b' => (f a).Ends b' ok bad) bad) :
    (x >>= f).Ends b ok bad := by
  intro as
  have := h as
  rw [Op.bind_apply]
  rcases hx : x ⟨b, as⟩ with ⟨a, c⟩ | ⟨e, c⟩ <;> simp only [hx, Op.Ended] at this ⊢
  · exact this c.answers
  · exact this

theorem Op.Ends.imp {x : Op α} {b : Block} {ok ok' : α → Block → Prop} {bad bad' : Halt → Block → Prop}
    (h : x.Ends b ok bad) (hok : ∀ a b', ok a b' → ok' a b') (hbad : ∀ e b', bad e b' → bad' e b') :
    x.Ends b ok' bad' := by
  intro as
  have := h as
  rcases hx : x ⟨b, as⟩ with ⟨a, c⟩ | ⟨e, c⟩ <;> simp only [hx, Op.Ended] at this ⊢
  · exact hok _ _ this
  · exact hbad _ _ this

theorem ends_update {f : Block → Block} {b : Block} {ok : Unit → Block → Prop} {bad : Halt → Block → Prop}
    (h : ok () (f b)) : (update f).Ends b ok bad := fun _ => h

theorem ends_look {b : Block} {ok : Block → Block → Prop} {bad : Halt → Block → Prop}
    (h : ok b b) : look.Ends b ok bad := fun _ => h

theorem ends_require {g : Bool} {e : Err} {b : Block} {ok : Unit → Block → Prop} {bad : Halt → Block → Prop}
    (h : g = true → ok () b) (hb : g = false → bad (.raised e) b.idlePhases) :
    (require g e).Ends b ok bad := by
  cases g
  · exact fun _ => hb rfl
  · exact fun _ => h rfl

theorem ends_present {r : Absent} {v : Option α} {b : Block} {ok : α → Block → Prop}
    {bad : Halt → Block → Prop} (h : ∀ a, v = some a → ok a b)
    (hb : v = none → bad (.stopped (.noValue r)) b) : (present r v).Ends b ok bad := by
  cases v
  · exact fun _ => hb rfl
  · exact fun _ => h _ rfl

theorem ends_busWrite {bytes : List Byte} {b : Block} {ok : Unit → Block → Prop} {bad : Halt → Block → Prop}
    (h : ok () (b.emit (.busWrite bytes true)))
    (hb : bad (.raised .transportTimeout) (b.emit (.busWrite bytes false)).idlePhases)
    (hw : bad .waiting b) : (busWrite bytes).Ends b ok bad := by
  intro as
  rcases as with _ | ⟨_ | _, as⟩
  · exact hw
  · exact h
  · exact hb

theorem ends_busRead {b : Block} {ok : Byte → Block → Prop} {bad : Halt → Block → Prop}
    (h : ∀ d, ok d (b.emit (readEvent d)))
    (hb : bad (.raised .transportTimeout) (b.emit (.busRead none)).idlePhases)
    (hw : bad .waiting b) : busRead.Ends b ok bad := by
  intro as
  rcases as with _ | ⟨_ | _, as⟩
  · exact hw
  · exact h _
  · exact hb

theorem ends_delay {ms : ℚ} {b : Block} {ok : Unit → Block → Prop} {bad : Halt → Block → Prop}
    (h : ok () (b.emit (.delay ms))) (hw : bad .waiting b) : (delay ms).Ends b ok bad := by
  intro as
  rcases as with _ | ⟨a, as⟩
  · exact hw
  · exact h

theorem ends_status {b : Block} {ok : Byte → Block → Prop} {bad : Halt → Block → Prop}
    (h : ∀ s, ok s ((b.emit (readEvent s)).setLastStatus s))
    (hb : bad (.raised .transportTimeout) (b.emit (.busRead none)).idlePhases)
    (hw : bad .waiting b) : status.Ends b ok bad := by
  intro as
  rcases as with _ | ⟨_ | _, as⟩
  · exact hw
  · exact h _
  · exact hb

/-- All a busy-poll can do: it reads busy statuses, then one that is not busy and returns, or none at all and
raises or waits. -/
theorem ends_poll {b : Block} {ok : Unit → Block → Prop} {bad : Halt → Block → Prop}
    (h : ∀ busy last, busy.all stBusy = true → stBusy last = false → ok () (b.polled (busy ++ [last])))
    (hb : ∀ busy, busy.all stBusy = true →
      bad (.raised .transportTimeout) ((b.polled busy).emit (.busRead none)).idlePhases)
    (hw : ∀ busy, busy.all stBusy = true → bad .waiting (b.polled busy)) : poll.Ends b ok bad := by
  intro as
  suffices H : ∀ (as : List Answer) (b' : Block) (seen : List Byte), b' = b.polled seen → seen.all stBusy = true →
      Op.Ended (poll ⟨b', as⟩) ok bad from H as b [] rfl rfl
  intro as
  induction as with
  | nil => intro b' seen hs hall; subst hs; exact hw seen hall
  | cons a as ih =>
    intro b' seen hs hall
    subst hs
    cases a with
    | timeout => exact hb seen hall
    | reply s =>
      have hp : ((b.polled seen).emit (.busRead (some s))).setLastStatus s = b.polled (seen ++ [s]) := by
        simp [Block.polled, readEvent]
      cases hbz : stBusy s with
      | true =>
        have : poll ⟨b.polled seen, .reply s :: as⟩ = poll ⟨b.polled (seen ++ [s]), as⟩ := by
          simp [poll, pollFrom, hbz, hp]
        rw [this]
        exact ih _ (seen ++ [s]) rfl (by rw [List.all_append, hall]; simp [hbz])
      | false =>
        have : poll ⟨b.polled seen, .reply s :: as⟩ = .ok () ⟨b.polled (seen ++ [s]), as⟩ := by
          simp [poll, pollFrom, hbz, hp]
        rw [this]
        exact h seen s hall hbz

/-! ## Operations that touch only the bus registers -/

/-- `b'` differs from `b` in the bus registers alone, and its history is longer or the same. -/
structure Block.Onward (b b' : Block) : Prop where
  others : b' = b.withBusOf b'
  history : b.history <+: b'.history

theorem Block.Onward.refl (b : Block) : b.Onward b := ⟨rfl, List.prefix_rfl⟩

theorem Block.Onward.trans {a b c : Block} (h : a.Onward b) (h' : b.Onward c) : a.Onward c := by
  refine ⟨?_, h.history.trans h'.history⟩
  have h1 := h.others
  have h2 := h'.others
  rw [h1] at h2
  exact h2

theorem Block.onward_setSnPhase (b : Block) (ph : SnPhase) : b.Onward (b.setSnPhase ph) :=
  ⟨rfl, List.prefix_rfl⟩
theorem Block.onward_setBrPhase (b : Block) (ph : BrPhase) : b.Onward (b.setBrPhase ph) :=
  ⟨rfl, List.prefix_rfl⟩
theorem Block.onward_idlePhases (b : Block) : b.Onward b.idlePhases := ⟨rfl, List.prefix_rfl⟩
theorem Block.onward_setLastStatus (b : Block) (s : Byte) : b.Onward (b.setLastStatus s) :=
  ⟨rfl, List.prefix_rfl⟩
theorem Block.onward_setCfgShadow (b : Block) (s : Nibble) : b.Onward (b.setCfgShadow s) :=
  ⟨rfl, List.prefix_rfl⟩
theorem Block.onward_setSp (b : Block) (v : Vector Byte 9) : b.Onward (b.setSp v) := ⟨rfl, List.prefix_rfl⟩
theorem Block.onward_emit (b : Block) (e : Event) : b.Onward (b.emit e) := ⟨rfl, List.prefix_append _ _⟩
theorem Block.onward_polled (b : Block) (ss : List Byte) : b.Onward (b.polled ss) := by
  rw [Block.polled_eq]
  exact ⟨rfl, List.prefix_append _ _⟩

theorem Block.Onward.parasitic {b b' : Block} (h : b.Onward b') : b'.parasitic = b.parasitic := by
  rw [h.others]; rfl
theorem Block.Onward.resolution {b b' : Block} (h : b.Onward b') : b'.resolution = b.resolution := by
  rw [h.others]; rfl
theorem Block.Onward.state {b b' : Block} (h : b.Onward b') : b'.state = b.state := by
  rw [h.others]; rfl

/-- What an operation may do that talks to the bus and decides nothing: it touches the bus registers alone; it
leaves the bridge's sequencer idle if it found it so, and the sensor's as it found it where `sn` holds; it
raises only the errors `errs`, with both sequencers idle; and it stops only for want of `parasitic` or
`resolution`, not at all where `sn` holds. -/
def Op.Within (x : Op α) (sn : Prop) (errs : List Err) : Prop :=
  ∀ b, x.Ends b
    (fun _ b' => b.Onward b' ∧ (b.brPhase = .brIdle → b'.brPhase = .brIdle) ∧ (sn → b'.snPhase = b.snPhase))
    (fun h b' => b.Onward b' ∧ (∀ e, h = .raised e → e ∈ errs ∧ b'.Idle)
      ∧ ∀ f, h = .stopped f → ¬ sn ∧ (b.parasitic = none ∨ b.resolution = none))

theorem Op.Within.bind {x : Op α} {f : α → Op β} {sn : Prop} {errs : List Err} (hx : x.Within sn errs)
    (hf : ∀ a, (f a).Within sn errs) : (x >>= f).Within sn errs := by
  intro b
  refine Op.ends_bind ((hx b).imp ?_ fun _ _ => id)
  rintro a b' ⟨ho, hbr, hsn⟩
  refine (hf a b').imp ?_ ?_
  · rintro _ b'' ⟨ho', hbr', hsn'⟩
    exact ⟨ho.trans ho', fun h => hbr' (hbr h), fun h => (hsn' h).trans (hsn h)⟩
  · rintro e b'' ⟨ho', he, hs⟩
    exact ⟨ho.trans ho', he, fun f' hf' => by rw [← ho.parasitic, ← ho.resolution]; exact hs f' hf'⟩

theorem Op.Within.mono {x : Op α} {sn sn' : Prop} {errs errs' : List Err} (h : x.Within sn errs)
    (hsn : sn' → sn) (he : errs ⊆ errs') : x.Within sn' errs' := fun b =>
  (h b).imp (fun _ _ ⟨h1, h2, h3⟩ => ⟨h1, h2, fun x => h3 (hsn x)⟩)
    (fun _ _ ⟨h1, h2, h3⟩ => ⟨h1, fun e h => ⟨he (h2 e h).1, (h2 e h).2⟩,
      fun f h => ⟨fun x => (h3 f h).1 (hsn x), (h3 f h).2⟩⟩)

theorem Op.within_pure (a : α) (sn : Prop) (errs : List Err) : (pure a : Op α).Within sn errs := fun b =>
  Op.ends_pure ⟨.refl b, id, fun _ => rfl⟩

theorem within_require (g : Bool) (e : Err) (sn : Prop) (errs : List Err) (he : e ∈ errs) :
    (require g e).Within sn errs := fun b =>
  ends_require (fun _ => ⟨.refl b, id, fun _ => rfl⟩)
    (fun _ => ⟨b.onward_idlePhases, fun e' h => by cases h; exact ⟨he, rfl, rfl⟩, fun f h => by cases h⟩)

theorem within_delay (ms : ℚ) (sn : Prop) (errs : List Err) : (delay ms).Within sn errs := fun b =>
  ends_delay ⟨b.onward_emit _, id, fun _ => rfl⟩
    ⟨.refl b, nofun, nofun⟩

theorem within_setSnPhase (ph : SnPhase) (errs : List Err) : (update (·.setSnPhase ph)).Within False errs :=
  fun b => ends_update ⟨b.onward_setSnPhase ph, id, False.elim⟩

theorem within_setSp (v : Vector Byte 9) (sn : Prop) (errs : List Err) : (update (·.setSp v)).Within sn errs :=
  fun b => ends_update ⟨b.onward_setSp v, id, fun _ => rfl⟩

theorem Block.Onward.emit {b b' : Block} (h : b.Onward b') (e : Event) : b.Onward (b'.emit e) :=
  h.trans (b'.onward_emit e)
theorem Block.Onward.setBrPhase {b b' : Block} (h : b.Onward b') (ph : BrPhase) : b.Onward (b'.setBrPhase ph) :=
  h.trans (b'.onward_setBrPhase ph)
theorem Block.Onward.setLastStatus {b b' : Block} (h : b.Onward b') (s : Byte) : b.Onward (b'.setLastStatus s) :=
  h.trans (b'.onward_setLastStatus s)
theorem Block.Onward.setCfgShadow {b b' : Block} (h : b.Onward b') (s : Nibble) : b.Onward (b'.setCfgShadow s) :=
  h.trans (b'.onward_setCfgShadow s)
theorem Block.Onward.idlePhases {b b' : Block} (h : b.Onward b') : b.Onward b'.idlePhases :=
  h.trans b'.onward_idlePhases
theorem Block.Onward.polled {b b' : Block} (h : b.Onward b') (ss : List Byte) : b.Onward (b'.polled ss) :=
  h.trans (b'.onward_polled ss)

@[simp] theorem Block.polled_snPhase (b : Block) (ss : List Byte) : (b.polled ss).snPhase = b.snPhase := by
  rw [Block.polled_eq]

/-! ### The bridge operations

Each sends its command, samples or polls the status, and leaves the bridge's sequencer idle. -/

theorem ends_sendCommand {bytes : List Byte} {b : Block} {ok : Unit → Block → Prop} {bad : Halt → Block → Prop}
    (h : ok () ((b.setBrPhase .brCommand).emit (.busWrite bytes true)))
    (hb : bad (.raised .transportTimeout) ((b.setBrPhase .brCommand).emit (.busWrite bytes false)).idlePhases)
    (hw : bad .waiting (b.setBrPhase .brCommand)) : (sendCommand bytes).Ends b ok bad :=
  Op.ends_bind (ends_update (ends_busWrite h hb hw))

theorem ends_sampleStatus {b : Block} {ok : Byte → Block → Prop} {bad : Halt → Block → Prop}
    (h : ∀ s, ok s (((b.setBrPhase .brPoll).emit (readEvent s)).setLastStatus s))
    (hb : bad (.raised .transportTimeout) ((b.setBrPhase .brPoll).emit (.busRead none)).idlePhases)
    (hw : bad .waiting (b.setBrPhase .brPoll)) : sampleStatus.Ends b ok bad :=
  Op.ends_bind (ends_update (ends_status h hb hw))

theorem ends_waitNotBusy {b : Block} {ok : Unit → Block → Prop} {bad : Halt → Block → Prop}
    (h : ∀ busy last, busy.all stBusy = true → stBusy last = false →
      ok () ((b.setBrPhase .brPoll).polled (busy ++ [last])))
    (hb : ∀ busy, busy.all stBusy = true →
      bad (.raised .transportTimeout) (((b.setBrPhase .brPoll).polled busy).emit (.busRead none)).idlePhases)
    (hw : ∀ busy, busy.all stBusy = true → bad .waiting ((b.setBrPhase .brPoll).polled busy)) :
    waitNotBusy.Ends b ok bad :=
  Op.ends_bind (ends_update (ends_poll h hb hw))

/-- A command that samples the status once and tests it. -/
theorem within_statusCommand (bytes : List Byte) (test : Byte → Bool) (e : Err) :
    Op.Within (do sendCommand bytes; let s ← sampleStatus; require (test s) e; bridgeDone) True
      [.transportTimeout, e] := by
  intro b
  have o := Block.Onward.refl b
  refine Op.ends_bind (ends_sendCommand (Op.ends_bind (ends_sampleStatus (fun s => Op.ends_bind
    (ends_require (fun _ => ends_update ⟨?_, fun _ => rfl, fun _ => rfl⟩) fun _ => ⟨?_, ?_, nofun⟩)) ⟨?_, ?_, nofun⟩
    ⟨?_, nofun, nofun⟩)) ⟨?_, ?_, nofun⟩ ⟨?_, nofun, nofun⟩)
  · exact (((((o.setBrPhase _).emit _).setBrPhase _).emit _).setLastStatus _).setBrPhase _
  · exact (((((o.setBrPhase _).emit _).setBrPhase _).emit _).setLastStatus _).idlePhases
  · rintro e' h; cases h; exact ⟨by simp, rfl, rfl⟩
  · exact ((((o.setBrPhase _).emit _).setBrPhase _).emit _).idlePhases
  · rintro e' h; cases h; exact ⟨by simp, rfl, rfl⟩
  · exact ((o.setBrPhase _).emit _).setBrPhase _
  · exact ((o.setBrPhase _).emit _).idlePhases
  · rintro e' h; cases h; exact ⟨by simp, rfl, rfl⟩
  · exact o.setBrPhase _

theorem within_brReset : brReset.Within True [.transportTimeout, .bridgeNotPresent] :=
  within_statusCommand _ _ _

theorem within_brResetch : brResetch.Within True [.transportTimeout, .noChannelPresence] :=
  within_statusCommand _ _ _

theorem within_brWritecfg (bits : Nibble) : (brWritecfg bits).Within True [.transportTimeout] := by
  intro b
  have o := Block.Onward.refl b
  refine Op.ends_bind (ends_sendCommand (Op.ends_bind (ends_update (ends_update ⟨?_, fun _ => rfl, fun _ => rfl⟩)))
    ⟨?_, ?_, nofun⟩ ⟨?_, nofun, nofun⟩)
  · exact (((o.setBrPhase _).emit _).setCfgShadow _).setBrPhase _
  · exact ((o.setBrPhase _).emit _).idlePhases
  · rintro e' h; cases h; exact ⟨by simp, rfl, rfl⟩
  · exact o.setBrPhase _

theorem within_brWritebyte (d : Byte) : (brWritebyte d).Within True [.transportTimeout] := by
  intro b
  have o := Block.Onward.refl b
  refine Op.ends_bind (ends_sendCommand (Op.ends_bind (ends_waitNotBusy
    (fun busy last _ _ => ends_update ⟨?_, fun _ => rfl, fun _ => ?_⟩) (fun _ _ => ⟨?_, ?_, nofun⟩)
    (fun _ _ => ⟨?_, nofun, nofun⟩))) ⟨?_, ?_, nofun⟩ ⟨?_, nofun, nofun⟩)
  · exact ((((o.setBrPhase _).emit _).setBrPhase _).polled _).setBrPhase _
  · simp
  · exact (((((o.setBrPhase _).emit _).setBrPhase _).polled _).emit _).idlePhases
  · rintro e' h; cases h; exact ⟨by simp, rfl, rfl⟩
  · exact (((o.setBrPhase _).emit _).setBrPhase _).polled _
  · exact ((o.setBrPhase _).emit _).idlePhases
  · rintro e' h; cases h; exact ⟨by simp, rfl, rfl⟩
  · exact o.setBrPhase _

theorem within_brReadbit (p : Params) : (brReadbit p).Within True [.transportTimeout] := by
  intro b
  have o := Block.Onward.refl b
  refine Op.ends_bind (ends_sendCommand (Op.ends_bind (ends_sampleStatus
    (fun s => Op.ends_bind (ends_update (Op.ends_pure ⟨?_, fun _ => rfl, fun _ => rfl⟩))) ⟨?_, ?_, nofun⟩
    ⟨?_, nofun, nofun⟩)) ⟨?_, ?_, nofun⟩ ⟨?_, nofun, nofun⟩)
  · exact (((((o.setBrPhase _).emit _).setBrPhase _).emit _).setLastStatus _).setBrPhase _
  · exact ((((o.setBrPhase _).emit _).setBrPhase _).emit _).idlePhases
  · rintro e' h; cases h; exact ⟨by simp, rfl, rfl⟩
  · exact ((o.setBrPhase _).emit _).setBrPhase _
  · exact ((o.setBrPhase _).emit _).idlePhases
  · rintro e' h; cases h; exact ⟨by simp, rfl, rfl⟩
  · exact o.setBrPhase _

theorem within_brReadbyte (p : Params) : (brReadbyte p).Within True [.transportTimeout] := by
  intro b
  have o := Block.Onward.refl b
  refine Op.ends_bind (ends_sendCommand (Op.ends_bind (ends_waitNotBusy (fun busy last _ _ => ?_)
    (fun _ _ => ⟨?_, ?_, nofun⟩) (fun _ _ => ⟨?_, nofun, nofun⟩))) ⟨?_, ?_, nofun⟩ ⟨?_, nofun, nofun⟩)
  · have o' := (((o.setBrPhase .brCommand).emit (.busWrite [Wire.readByte] true)).setBrPhase .brPoll).polled (busy ++ [last])
    refine Op.ends_bind (ends_update (Op.ends_bind (ends_busWrite (Op.ends_bind (ends_update (Op.ends_bind
      (ends_busRead (fun d => Op.ends_bind (ends_update (Op.ends_pure ⟨?_, fun _ => rfl, fun _ => ?_⟩)))
        ⟨?_, ?_, nofun⟩ ⟨?_, nofun, nofun⟩)))) ⟨?_, ?_, nofun⟩ ⟨?_, nofun, nofun⟩)))
    · exact ((((o'.setBrPhase _).emit _).setBrPhase _).emit _).setBrPhase _
    · simp
    · exact ((((o'.setBrPhase _).emit _).setBrPhase _).emit _).idlePhases
    · rintro e' h; cases h; exact ⟨by simp, rfl, rfl⟩
    · exact ((o'.setBrPhase _).emit _).setBrPhase _
    · exact ((o'.setBrPhase _).emit _).idlePhases
    · rintro e' h; cases h; exact ⟨by simp, rfl, rfl⟩
    · exact o'.setBrPhase _
  · exact (((((o.setBrPhase _).emit _).setBrPhase _).polled _).emit _).idlePhases
  · rintro e' h; cases h; exact ⟨by simp, rfl, rfl⟩
  · exact (((o.setBrPhase _).emit _).setBrPhase _).polled _
  · exact ((o.setBrPhase _).emit _).idlePhases
  · rintro e' h; cases h; exact ⟨by simp, rfl, rfl⟩
  · exact o.setBrPhase _

theorem within_commandAlone (ph : BrPhase) (bytes : List Byte) :
    (commandAlone ph bytes).Within True [.transportTimeout] := by
  intro b
  have o := Block.Onward.refl b
  refine Op.ends_bind (ends_update (Op.ends_bind (ends_busWrite (ends_update ⟨?_, fun _ => rfl, fun _ => rfl⟩)
    ⟨?_, ?_, nofun⟩ ⟨?_, nofun, nofun⟩)))
  · exact ((o.setBrPhase _).emit _).setBrPhase _
  · exact ((o.setBrPhase _).emit _).idlePhases
  · rintro e' h; cases h; exact ⟨by simp, rfl, rfl⟩
  · exact o.setBrPhase _

/-! ### The sensor operations -/

theorem within_select : select.Within True [.transportTimeout, .noChannelPresence] :=
  within_brResetch.bind fun _ => (within_brWritebyte _).mono id (by simp)

theorem within_readBytes (p : Params) : (n : Nat) → (readBytes p n).Within True [.transportTimeout]
  | 0 => Op.within_pure _ _ _
  | n + 1 => (within_readBytes p n).bind fun _ => (within_brReadbyte p).bind fun _ => Op.within_pure _ _ _

theorem within_readRom (p : Params) :
    (readRom p).Within True [.transportTimeout, .noChannelPresence, .romChecksumInvalid] :=
  (within_brResetch.mono id (by simp)).bind fun _ => ((within_brWritebyte _).mono id (by simp)).bind fun _ =>
    ((within_readBytes p 8).mono id (by simp)).bind fun _ =>
      (within_require _ _ _ _ (by simp)).bind fun _ => Op.within_pure _ _ _

theorem within_probePower (p : Params) :
    (probePower p).Within True [.transportTimeout, .noChannelPresence] :=
  within_select.bind fun _ => ((within_brWritebyte _).mono id (by simp)).bind fun _ =>
    ((within_brReadbit p).mono id (by simp)).bind fun _ => Op.within_pure _ _ _

theorem within_writeResolution (res : ResCode) :
    (writeResolution res).Within True [.transportTimeout, .noChannelPresence] :=
  have w := fun d => (within_brWritebyte d).mono (sn' := True) (errs' := [.transportTimeout, .noChannelPresence])
    id (by simp)
  within_select.bind fun _ => (w _).bind fun _ => (w _).bind fun _ => (w _).bind fun _ => w _

theorem within_strongPullup (p : Params) (par : Bool) :
    (strongPullup p par).Within True [.transportTimeout] := by
  cases par
  · exact Op.within_pure _ _ _
  · exact within_brWritecfg _

theorem within_copyToEeprom (p : Params) (par : Bool) :
    (copyToEeprom p par).Within True [.transportTimeout, .noChannelPresence] := by
  refine within_select.bind fun _ => ((within_strongPullup p par).mono id (by simp)).bind fun _ =>
    ((within_brWritebyte _).mono id (by simp)).bind fun _ => ?_
  cases par
  · exact Op.within_pure _ _ _
  · exact within_delay _ _ _

theorem within_readScratchpad (p : Params) :
    (readScratchpad p).Within False [.transportTimeout, .noChannelPresence] :=
  (within_setSnPhase _ _).bind fun _ => (within_brResetch.mono False.elim (by simp)).bind fun _ =>
    ((within_brWritebyte _).mono False.elim (by simp)).bind fun _ =>
      ((within_brWritebyte _).mono False.elim (by simp)).bind fun _ =>
        ((within_readBytes p 9).mono False.elim (by simp)).bind fun _ =>
          (within_setSp _ _ _).bind fun _ => Op.within_pure _ _ _

theorem within_scratchpadLoop (p : Params) : (fuel attempts : Nat) →
    (scratchpadLoop p fuel attempts).Within False [.transportTimeout, .noChannelPresence, .measurementFailed]
  | 0, _ => fun b _ => ⟨.refl b, nofun, nofun⟩
  | fuel + 1, attempts => by
    refine (within_require _ _ _ _ (by simp)).bind fun _ => ((within_readScratchpad p).mono id (by simp)).bind fun v => ?_
    split
    · exact (within_setSnPhase _ _).bind fun _ => Op.within_pure _ _ _
    · exact (within_setSnPhase _ _).bind fun _ => within_scratchpadLoop p fuel (attempts + 1)

theorem within_validScratchpad (p : Params) :
    (validScratchpad p).Within False [.transportTimeout, .noChannelPresence, .measurementFailed] :=
  fun b as => within_scratchpadLoop p (as.length + 1) 0 b as

theorem within_parasitic_bind {k : Bool → Op α} {errs : List Err} (h : ∀ v, (k v).Within False errs) :
    Op.Within (look >>= fun b => present .parasitic b.parasitic >>= k) False errs := fun b =>
  Op.ends_bind (ends_look (Op.ends_bind (ends_present (fun v _ => h v b)
    (fun hn => ⟨.refl b, nofun, fun _ _ => ⟨id, .inl hn⟩⟩))))

theorem within_resolution_bind {k : ResCode → Op α} {errs : List Err} (h : ∀ v, (k v).Within False errs) :
    Op.Within (look >>= fun b => present .resolution b.resolution >>= k) False errs := fun b =>
  Op.ends_bind (ends_look (Op.ends_bind (ends_present (fun v _ => h v b)
    (fun hn => ⟨.refl b, nofun, fun _ _ => ⟨id, .inr hn⟩⟩))))

theorem within_triggerConversion (p : Params) :
    (triggerConversion p).Within False [.transportTimeout, .noChannelPresence] :=
  have w := fun d => (within_brWritebyte d).mono (sn' := False) (errs' := [.transportTimeout, .noChannelPresence])
    False.elim (by simp)
  (within_setSnPhase _ _).bind fun _ => (within_brResetch.mono False.elim (by simp)).bind fun _ =>
    (within_setSnPhase _ _).bind fun _ => (w _).bind fun _ => within_parasitic_bind fun par =>
      ((within_strongPullup p par).mono False.elim (by simp)).bind fun _ =>
        (within_setSnPhase _ _).bind fun _ => w _

/-- The end of a measurement: the phases run out and the scratchpad's first two bytes are decoded. -/
theorem ends_snMeasure (p : Params) (b : Block) : (snMeasure p).Ends b
    (fun _ b' => b.Onward b' ∧ (b.brPhase = .brIdle → b'.brPhase = .brIdle) ∧ b'.snPhase = .idle)
    (fun h b' => b.Onward b'
      ∧ (∀ e, h = .raised e → e ∈ [Err.transportTimeout, .noChannelPresence, .measurementFailed] ∧ b'.Idle)
      ∧ ∀ f, h = .stopped f → b.parasitic = none ∨ b.resolution = none) := by
  have front : Op.Within (do
      triggerConversion p
      let b ← look
      let res ← present .resolution b.resolution
      update (·.setSnPhase .converting)
      delay (tConvMs res)
      let sp ← validScratchpad p
      pure (sp, res)) False [.transportTimeout, .noChannelPresence, .measurementFailed] :=
    ((within_triggerConversion p).mono id (by simp)).bind fun _ => within_resolution_bind fun res =>
      (within_setSnPhase _ _).bind fun _ => (within_delay _ _ _).bind fun _ =>
        (within_validScratchpad p).bind fun _ => Op.within_pure _ _ _
  have split : snMeasure p = (do
      triggerConversion p
      let b ← look
      let res ← present .resolution b.resolution
      update (·.setSnPhase .converting)
      delay (tConvMs res)
      let sp ← validScratchpad p
      pure (sp, res)) >>= fun x => (do
        update (·.setSnPhase .decoded)
        update (·.setSnPhase .idle)
        pure (decodeTemp p x.1[0] x.1[1] x.2)) := by
    simp [snMeasure, conversionWait]
  rw [split]
  refine Op.ends_bind ((front b).imp ?_ ?_)
  · rintro ⟨sp, res⟩ b' ⟨ho, hb, _⟩
    refine Op.ends_bind (ends_update (Op.ends_bind (ends_update (Op.ends_pure ⟨?_, hb, rfl⟩))))
    exact (ho.trans (b'.onward_setSnPhase _)).trans (Block.onward_setSnPhase _ _)
  · rintro e b' ⟨ho, he, hs⟩
    exact ⟨ho, he, fun f hf => (hs f hf).2⟩

/-- Initialisation returns with a valid ROM code committed, together with the power mode and the resolution
(rule R140), or raises having committed nothing. -/
theorem ends_snInit (p : Params) (res : ResCode) (b : Block) : (snInit p res).Ends b
    (fun _ b' => ∃ b₀ rom par, b.Onward b₀ ∧ (b.brPhase = .brIdle → b₀.brPhase = .brIdle) ∧ b₀.snPhase = b.snPhase
      ∧ recordValid p rom.toList 7 = true ∧ b' = b₀.commitInit rom par res)
    (fun h b' => b.Onward b'
      ∧ (∀ e, h = .raised e →
        e ∈ [Err.transportTimeout, .bridgeNotPresent, .noChannelPresence, .romChecksumInvalid] ∧ b'.Idle)
      ∧ ∀ f, h ≠ .stopped f) := by
  have bad : ∀ {b₀ : Block} {h : Halt} {b' : Block} {errs : List Err}, b.Onward b₀ →
      errs ⊆ [Err.transportTimeout, .bridgeNotPresent, .noChannelPresence, .romChecksumInvalid] →
      (b₀.Onward b' ∧ (∀ e, h = .raised e → e ∈ errs ∧ b'.Idle)
        ∧ ∀ f, h = .stopped f → ¬ True ∧ (b₀.parasitic = none ∨ b₀.resolution = none)) →
      b.Onward b' ∧ (∀ e, h = .raised e →
        e ∈ [Err.transportTimeout, .bridgeNotPresent, .noChannelPresence, .romChecksumInvalid] ∧ b'.Idle)
      ∧ ∀ f, h ≠ .stopped f := fun ho hs ⟨h1, h2, h3⟩ =>
    ⟨ho.trans h1, fun e he => ⟨hs (h2 e he).1, (h2 e he).2⟩, fun f hf => (h3 f hf).1 trivial⟩
  refine Op.ends_bind ((within_brReset b).imp ?_ fun _ _ => bad (.refl b) (by simp))
  rintro _ b1 ⟨o1, r1, s1⟩
  have readRom_valid : (readRom p).Ends b1
      (fun rom b' => (b1.Onward b' ∧ (b1.brPhase = .brIdle → b'.brPhase = .brIdle) ∧ b'.snPhase = b1.snPhase)
        ∧ recordValid p rom.toList 7 = true)
      (fun h b' => b.Onward b' ∧ (∀ e, h = .raised e →
        e ∈ [Err.transportTimeout, .bridgeNotPresent, .noChannelPresence, .romChecksumInvalid] ∧ b'.Idle)
        ∧ ∀ f, h ≠ .stopped f) := by
    have w : Op.Within (do brResetch; brWritebyte Wire.romRead; readBytes p 8) True
        [.transportTimeout, .noChannelPresence] :=
      (within_brResetch.mono id (by simp)).bind fun _ => ((within_brWritebyte _).mono id (by simp)).bind fun _ =>
        (within_readBytes p 8).mono id (by simp)
    have e : readRom p = (do brResetch; brWritebyte Wire.romRead; readBytes p 8) >>= fun r =>
        (do require (recordValid p r.toList 7) .romChecksumInvalid; pure r) := by simp [readRom]
    rw [e]
    refine Op.ends_bind ((w b1).imp ?_ fun _ _ => bad o1 (by simp))
    rintro r b' ⟨h1, h2, h3⟩
    refine Op.ends_bind (ends_require (fun hv => Op.ends_pure ⟨⟨h1, h2, h3 trivial⟩, hv⟩) fun _ => ⟨?_, ?_, nofun⟩)
    · exact (o1.trans h1).idlePhases
    · rintro e he; cases he; exact ⟨by simp, rfl, rfl⟩
  refine Op.ends_bind (readRom_valid.imp ?_ fun _ _ => id)
  rintro rom b2 ⟨⟨o2, r2, s2⟩, hv⟩
  refine Op.ends_bind ((within_probePower p b2).imp ?_ fun _ _ => bad (o1.trans o2) (by simp))
  rintro par b3 ⟨o3, r3, s3⟩
  refine Op.ends_bind ((within_writeResolution res b3).imp ?_ fun _ _ => bad ((o1.trans o2).trans o3) (by simp))
  rintro _ b4 ⟨o4, r4, s4⟩
  refine Op.ends_bind ((within_copyToEeprom p par b4).imp ?_
    fun _ _ => bad (((o1.trans o2).trans o3).trans o4) (by simp))
  rintro _ b5 ⟨o5, r5, s5⟩
  exact ends_update ⟨b5, rom, par, (((o1.trans o2).trans o3).trans o4).trans o5,
    fun h => r5 (r4 (r3 (r2 (r1 h)))),
    by rw [s5 trivial, s4 trivial, s3 trivial, s2, s1 trivial], hv, rfl⟩

end Sys2Proof.Machine
end

