-- ==== Sys2Proof/Laws/Performed.lean ====
section
/-! SUPPORT. What performing an operation comes to, from how the operation can end; and how a tick can end. -/

namespace Sys2Proof.Machine

variable {ok : Option Value → Block → Prop} {bad : Halt → Block → Prop}
variable {i : Instr} {reports : Bool} {op : Op (Option Value)} {s t : State}

/-- An operation without a result ends as it does with one. -/
theorem ends_noResult {op : Op Unit} {b : Block} {ok : Unit → Block → Prop} (h : op.Ends b ok bad) :
    (noResult op).Ends b (fun v b' => v = none ∧ ok () b') bad :=
  Op.ends_bind (h.imp (fun _ _ h => Op.ends_pure ⟨rfl, h⟩) fun _ _ => id)

/-- Performing an operation that can end in `ok` and `bad`: where the machine goes on, it has returned, or
raised into the safe state, or waits with its start and its answers recorded. -/
theorem perform_next (h : op.Ends s.block ok bad) (ht : perform i reports op s = .next t) :
    (∃ v b later, ok v b ∧ t = { s with
        block := b, busy := none, outside := later,
        result := if reports then some ⟨.noError, v⟩ else s.result })
    ∨ (∃ e b later, bad (.raised e) b ∧ t = { s with
        block := b.safeState e, busy := none, outside := later,
        result := if reports then some ⟨e, none⟩ else s.result })
    ∨ (∃ b, bad .waiting b ∧ t = { s with
        block := b, busy := some ⟨i, s.block, (takeAnswers s.outside).1⟩,
        outside := (takeAnswers s.outside).2 }) := by
  have hx := h (takeAnswers s.outside).1
  rcases @perform_cases i reports op s with ⟨v, c, hc, hp⟩ | ⟨e, c, hc, hp⟩ | ⟨c, hc, hp⟩ | ⟨f, c, hc, hp⟩ <;>
    rw [hp] at ht <;> rw [hc] at hx
  · cases ht; exact .inl ⟨v, c.block, _, hx, rfl⟩
  · cases ht; exact .inr (.inl ⟨e, c.block, _, hx, rfl⟩)
  · cases ht; exact .inr (.inr ⟨c.block, hx, rfl⟩)
  · cases ht

/-- Where performing an operation faults, the operation stopped. -/
theorem perform_fault {f : Fault} (h : op.Ends s.block ok bad) (ht : perform i reports op s = .fault f) :
    ∃ b, bad (.stopped f) b := by
  have hx := h (takeAnswers s.outside).1
  rcases @perform_cases i reports op s with ⟨v, c, hc, hp⟩ | ⟨e, c, hc, hp⟩ | ⟨c, hc, hp⟩ | ⟨f, c, hc, hp⟩ <;>
    rw [hp] at ht <;> rw [hc] at hx
  · cases ht
  · cases ht
  · cases ht
  · cases ht; exact ⟨c.block, hx⟩

/-- Performing an operation refuses nothing. -/
theorem perform_not_refused (r : Refusal) : perform i reports op s ≠ .refused r := by
  rcases @perform_cases i reports op s with ⟨v, c, hc, hp⟩ | ⟨e, c, hc, hp⟩ | ⟨c, hc, hp⟩ | ⟨f, c, hc, hp⟩ <;>
    rw [hp] <;> exact nofun

/-- The registers a successful tick leaves, from those its measurement leaves and the reading (rule R196). -/
def Block.ticked (p : Params) (b : Block) (v : Temp) : Block :=
  let b' := (b.setLastReading v).record p v
  ((b'.setState (b'.evaluated (b'.sum / b'.len))).applyDrive).emit (.notify (.measurementComplete v))

/-- How the cycle of a tick can end (rules R196, R197): after a measurement, with all of the cycle done; in an error
of the measurement, or waiting, with nothing but the bus registers written; or, where the controller's state is
the reserved one, in the invariant violation, the sample recorded. -/
theorem ends_tickBody (p : Params) (b : Block) : (tickBody p).Ends b
    (fun _ b' => b.state ≠ .reserved ∧ ∃ b₀ v, b.Onward b₀ ∧ (b.brPhase = .brIdle → b₀.brPhase = .brIdle)
      ∧ b₀.snPhase = .idle ∧ b' = b₀.ticked p v)
    (fun h b' => (b.Onward b'
        ∧ (∀ e, h = .raised e → e ∈ [Err.transportTimeout, .noChannelPresence, .measurementFailed] ∧ b'.Idle)
        ∧ ∀ f, h = .stopped f → b.parasitic = none ∨ b.resolution = none)
      ∨ (b.state = .reserved ∧ h = .raised .invariantViolation
        ∧ ∃ b₀ v, b.Onward b₀ ∧ b' = ((b₀.setLastReading v).record p v).idlePhases)) := by
  refine Op.ends_bind ((ends_snMeasure p b).imp ?_ fun _ _ => .inl)
  rintro v b₀ ⟨o, hb, hn⟩
  obtain ⟨win, sum, hw, hr⟩ := Block.record_setWindow p (b₀.setLastReading v) v
  have ha : ((b₀.setLastReading v).record p v).average
      = some (((b₀.setLastReading v).record p v).sum / ((b₀.setLastReading v).record p v).len) := by
    rw [hr, Block.average_setWindow _ _ _ hw]; rfl
  have hstate : ((b₀.setLastReading v).record p v).state = b.state := by
    rw [hr]; simpa using o.state
  refine Op.ends_bind (ends_update (Op.ends_bind (ends_update (Op.ends_bind (ends_look (Op.ends_bind
    (ends_present (fun a hav => ?_) fun hnone => ?_)))))))
  · obtain rfl : ((b₀.setLastReading v).record p v).sum / ((b₀.setLastReading v).record p v).len = a := by
      simpa [ha] using hav
    refine Op.ends_bind (Op.ends_bind (ends_look (Op.ends_bind (ends_require (fun hs => ends_update ?_) fun hs => ?_))))
    · refine Op.ends_bind (ends_update (ends_update ⟨?_, b₀, v, o, hb, hn, rfl⟩))
      rw [← hstate]; simpa using hs
    · refine .inr ⟨?_, rfl, b₀, v, o, rfl⟩
      rw [← hstate]; simpa using hs
  · rw [ha] at hnone; cases hnone

end Sys2Proof.Machine
end

