-- ==== Sys2Proof/Laws/Resume.lean ====
section
/-! SUPPORT. Running an operation on more answers goes on from where it stood (rules R64, R69): what it had done it
has done, and only what it was waiting for is new. The step resumes an operation by running it again on all
its answers; this is why that is the same run continued. -/

namespace Sys2Proof.Machine

variable {α β : Type}

/-- The registers a run ends at. -/
def finalBlock (r : EStateM.Result Halt Ctx α) : Block :=
  match r with
  | .ok _ c => c.block
  | .error _ c => c.block

/-- `r'` is what the run `r` becomes when the answers `more` follow: the same, with `more` left over, where it had
ended; and where it was waiting, a history that goes on from the one it had. -/
def Op.GoesOn (r r' : EStateM.Result Halt Ctx α) (more : List Answer) : Prop :=
  match r with
  | .ok a c => r' = .ok a ⟨c.block, c.answers ++ more⟩
  | .error .waiting c => c.block.history <+: (finalBlock r').history
  | .error h c => r' = .error h ⟨c.block, c.answers ++ more⟩

/-- An operation only adds to the history, uses answers from the front, and goes on where it stood when more
answers come. -/
structure Op.Continues (x : Op α) : Prop where
  grows : ∀ c, c.block.history <+: (finalBlock (x c)).history
  goes_on : ∀ b as more, Op.GoesOn (x ⟨b, as⟩) (x ⟨b, as ++ more⟩) more
  uses : ∀ c a c', x c = .ok a c' → c'.answers.length ≤ c.answers.length

theorem Op.continues_pure (a : α) : (pure a : Op α).Continues :=
  ⟨fun _ => List.prefix_rfl, fun _ _ _ => rfl, fun _ _ _ h => by cases h; exact le_rfl⟩

theorem Op.Continues.bind {x : Op α} {f : α → Op β} (hx : x.Continues) (hf : ∀ a, (f a).Continues) :
    (x >>= f).Continues := by
  refine ⟨fun c => ?_, fun b as more => ?_, fun c a c' h => ?_⟩
  · have := hx.grows c
    rw [Op.bind_apply]
    cases hc : x c with
    | ok a c1 => rw [hc] at this; exact this.trans ((hf a).grows c1)
    | error h c1 => rw [hc] at this; exact this
  · have := hx.goes_on b as more
    rw [Op.bind_apply, Op.bind_apply]
    cases hc : x ⟨b, as⟩ with
    | ok a c1 =>
      rw [hc] at this
      simp only [Op.GoesOn] at this
      rw [this]
      exact (hf a).goes_on c1.block c1.answers more
    | error h c1 =>
      rw [hc] at this
      cases h with
      | waiting =>
        simp only [Op.GoesOn] at this ⊢
        cases hm : x ⟨b, as ++ more⟩ with
        | ok a c2 => rw [hm] at this; exact this.trans ((hf a).grows c2)
        | error h c2 => rw [hm] at this; exact this
      | raised e => simp only [Op.GoesOn] at this ⊢; rw [this]
      | stopped e => simp only [Op.GoesOn] at this ⊢; rw [this]
  · rw [Op.bind_apply] at h
    cases hc : x c with
    | ok a1 c1 => rw [hc] at h; exact ((hf a1).uses c1 a c' h).trans (hx.uses c a1 c1 hc)
    | error e c1 => rw [hc] at h; cases h

theorem continues_update {f : Block → Block} (h : ∀ b, b.history <+: (f b).history) : (update f).Continues :=
  ⟨fun c => h c.block, fun _ _ _ => rfl, fun _ _ _ h => by cases h; exact le_rfl⟩

theorem continues_look_bind {f : Block → Op α} (h : ∀ b, (f b).Continues) : (look >>= f).Continues :=
  ⟨fun c => (h c.block).grows c, fun b as more => (h b).goes_on b as more, fun c a c' e => (h c.block).uses c a c' e⟩

theorem continues_raise (e : Err) : (raise e : Op α).Continues :=
  ⟨fun _ => List.prefix_rfl, fun _ _ _ => rfl, fun _ _ _ h => by cases h⟩

theorem continues_require (g : Bool) (e : Err) : (require g e).Continues := by
  cases g
  · exact continues_raise e
  · exact Op.continues_pure ()

theorem continues_present (r : Absent) (v : Option α) : (present r v).Continues := by
  cases v with
  | none => exact ⟨fun _ => List.prefix_rfl, fun _ _ _ => rfl, fun _ _ _ h => by cases h⟩
  | some a => exact Op.continues_pure a

theorem continues_busWrite (bytes : List Byte) : (busWrite bytes).Continues := by
  refine ⟨fun ⟨b, as⟩ => ?_, fun b as more => ?_, fun ⟨b, as⟩ a c' h => ?_⟩
  · rcases as with _ | ⟨_ | _, as⟩ <;> simp [finalBlock, Block.emit, Block.idlePhases]
  · rcases as with _ | ⟨_ | _, as⟩
    · rcases more with _ | ⟨_ | _, more⟩ <;> simp [Op.GoesOn, finalBlock, Block.emit, Block.idlePhases]
    · rfl
    · rfl
  · rcases as with _ | ⟨_ | _, as⟩ <;> cases h; exact Nat.le_succ _

theorem continues_busRead : busRead.Continues := by
  refine ⟨fun ⟨b, as⟩ => ?_, fun b as more => ?_, fun ⟨b, as⟩ a c' h => ?_⟩
  · rcases as with _ | ⟨_ | _, as⟩ <;> simp [finalBlock, Block.emit, Block.idlePhases]
  · rcases as with _ | ⟨_ | _, as⟩
    · rcases more with _ | ⟨_ | _, more⟩ <;> simp [Op.GoesOn, finalBlock, Block.emit, Block.idlePhases]
    · rfl
    · rfl
  · rcases as with _ | ⟨_ | _, as⟩ <;> cases h; exact Nat.le_succ _

theorem continues_delay (ms : ℚ) : (delay ms).Continues := by
  refine ⟨fun ⟨b, as⟩ => ?_, fun b as more => ?_, fun ⟨b, as⟩ a c' h => ?_⟩
  · rcases as with _ | ⟨_, as⟩ <;> simp [finalBlock, Block.emit]
  · rcases as with _ | ⟨_, as⟩
    · rcases more with _ | ⟨_, more⟩ <;> simp [Op.GoesOn, finalBlock, Block.emit]
    · rfl
  · rcases as with _ | ⟨_, as⟩ <;> cases h; exact Nat.le_succ _

theorem continues_status : status.Continues :=
  continues_busRead.bind fun _ => (continues_update (by exact fun _ => List.prefix_rfl)).bind fun _ => Op.continues_pure _

theorem continues_poll : poll.Continues := by
  have unroll : ∀ b s as, poll ⟨b, .reply s :: as⟩ = if stBusy s then
      poll ⟨(b.emit (readEvent s)).setLastStatus s, as⟩ else .ok () ⟨(b.emit (readEvent s)).setLastStatus s, as⟩ :=
    fun _ _ _ => rfl
  have grows : ∀ as b, b.history <+: (finalBlock (poll ⟨b, as⟩)).history := by
    intro as
    induction as with
    | nil => exact fun _ => List.prefix_rfl
    | cons a as ih =>
      intro b
      cases a with
      | timeout => exact List.prefix_append _ _
      | reply s =>
        rw [unroll]
        split
        · exact (List.prefix_append _ [readEvent s]).trans (ih ((b.emit (readEvent s)).setLastStatus s))
        · exact List.prefix_append _ _
  refine ⟨fun ⟨b, as⟩ => grows as b, fun b as more => ?_, fun ⟨b, as⟩ a c' h => ?_⟩
  · induction as generalizing b with
    | nil => exact grows _ _
    | cons a as ih =>
      cases a with
      | timeout => rfl
      | reply s =>
        rw [List.cons_append, unroll, unroll]
        split
        · exact ih _
        · rfl
  · induction as generalizing b with
    | nil => cases h
    | cons a as ih =>
      cases a with
      | timeout => cases h
      | reply s =>
        rw [unroll] at h
        split at h
        · exact (ih _ h).trans (Nat.le_succ _)
        · cases h; exact Nat.le_succ _

/-! ### The operations of the drivers -/

theorem continues_sendCommand (bytes : List Byte) : (sendCommand bytes).Continues :=
  (continues_update (by exact fun _ => List.prefix_rfl)).bind fun _ => continues_busWrite bytes

theorem continues_sampleStatus : sampleStatus.Continues :=
  (continues_update (by exact fun _ => List.prefix_rfl)).bind fun _ => continues_status

theorem continues_waitNotBusy : waitNotBusy.Continues :=
  (continues_update (by exact fun _ => List.prefix_rfl)).bind fun _ => continues_poll

theorem continues_bridgeDone : bridgeDone.Continues := continues_update (by exact fun _ => List.prefix_rfl)

theorem continues_brReset : brReset.Continues :=
  (continues_sendCommand _).bind fun _ => continues_sampleStatus.bind fun _ =>
    (continues_require _ _).bind fun _ => continues_bridgeDone

theorem continues_brResetch : brResetch.Continues :=
  (continues_sendCommand _).bind fun _ => continues_sampleStatus.bind fun _ =>
    (continues_require _ _).bind fun _ => continues_bridgeDone

theorem continues_brWritecfg (bits : Nibble) : (brWritecfg bits).Continues :=
  (continues_sendCommand _).bind fun _ => (continues_update (by exact fun _ => List.prefix_rfl)).bind fun _ =>
    continues_bridgeDone

theorem continues_brWritebyte (b : Byte) : (brWritebyte b).Continues :=
  (continues_sendCommand _).bind fun _ => continues_waitNotBusy.bind fun _ => continues_bridgeDone

theorem continues_brReadbit (p : Params) : (brReadbit p).Continues :=
  (continues_sendCommand _).bind fun _ => continues_sampleStatus.bind fun _ =>
    continues_bridgeDone.bind fun _ => Op.continues_pure _

theorem continues_brReadbyte (p : Params) : (brReadbyte p).Continues :=
  (continues_sendCommand _).bind fun _ => continues_waitNotBusy.bind fun _ =>
    (continues_update (by exact fun _ => List.prefix_rfl)).bind fun _ => (continues_busWrite _).bind fun _ =>
      (continues_update (by exact fun _ => List.prefix_rfl)).bind fun _ => continues_busRead.bind fun _ =>
        continues_bridgeDone.bind fun _ => Op.continues_pure _

theorem continues_commandAlone (ph : BrPhase) (bytes : List Byte) : (commandAlone ph bytes).Continues :=
  (continues_update (by exact fun _ => List.prefix_rfl)).bind fun _ => (continues_busWrite _).bind fun _ => continues_bridgeDone

theorem continues_select : select.Continues := continues_brResetch.bind fun _ => continues_brWritebyte _

theorem continues_readBytes (p : Params) : (n : Nat) → (readBytes p n).Continues
  | 0 => Op.continues_pure _
  | n + 1 => (continues_readBytes p n).bind fun _ => (continues_brReadbyte p).bind fun _ => Op.continues_pure _

theorem continues_readRom (p : Params) : (readRom p).Continues :=
  continues_brResetch.bind fun _ => (continues_brWritebyte _).bind fun _ => (continues_readBytes p 8).bind fun _ =>
    (continues_require _ _).bind fun _ => Op.continues_pure _

theorem continues_probePower (p : Params) : (probePower p).Continues :=
  continues_select.bind fun _ => (continues_brWritebyte _).bind fun _ => (continues_brReadbit p).bind fun _ =>
    Op.continues_pure _

theorem continues_writeResolution (res : ResCode) : (writeResolution res).Continues :=
  continues_select.bind fun _ => (continues_brWritebyte _).bind fun _ => (continues_brWritebyte _).bind fun _ =>
    (continues_brWritebyte _).bind fun _ => continues_brWritebyte _

theorem continues_strongPullup (p : Params) (par : Bool) : (strongPullup p par).Continues := by
  cases par
  · exact Op.continues_pure _
  · exact continues_brWritecfg _

theorem continues_copyToEeprom (p : Params) (par : Bool) : (copyToEeprom p par).Continues := by
  refine continues_select.bind fun _ => (continues_strongPullup p par).bind fun _ =>
    (continues_brWritebyte _).bind fun _ => ?_
  cases par
  · exact Op.continues_pure _
  · exact continues_delay _

theorem continues_snInit (p : Params) (res : ResCode) : (snInit p res).Continues :=
  continues_brReset.bind fun _ => (continues_readRom p).bind fun _ => (continues_probePower p).bind fun _ =>
    (continues_writeResolution res).bind fun _ => (continues_copyToEeprom p _).bind fun _ =>
      continues_update (by exact fun _ => List.prefix_rfl)

theorem continues_triggerConversion (p : Params) : (triggerConversion p).Continues :=
  (continues_update (by exact fun _ => List.prefix_rfl)).bind fun _ => continues_brResetch.bind fun _ =>
    (continues_update (by exact fun _ => List.prefix_rfl)).bind fun _ => (continues_brWritebyte _).bind fun _ =>
      continues_look_bind fun _ => (continues_present _ _).bind fun _ => (continues_strongPullup p _).bind fun _ =>
        (continues_update (by exact fun _ => List.prefix_rfl)).bind fun _ => continues_brWritebyte _

theorem continues_readScratchpad (p : Params) : (readScratchpad p).Continues :=
  (continues_update (by exact fun _ => List.prefix_rfl)).bind fun _ => continues_brResetch.bind fun _ =>
    (continues_brWritebyte _).bind fun _ => (continues_brWritebyte _).bind fun _ =>
      (continues_readBytes p 9).bind fun _ => (continues_update (by exact fun _ => List.prefix_rfl)).bind fun _ =>
        Op.continues_pure _

/-- A scratchpad read uses at least one answer, so the retry loop ends with the answers. -/
theorem readScratchpad_uses {p : Params} {c c' : Ctx} {v : Vector Byte 9}
    (h : readScratchpad p c = .ok v c') : c'.answers.length < c.answers.length := by
  obtain ⟨b, as⟩ := c
  let rest : Op (Vector Byte 9) := do
    let s ← sampleStatus
    require (stPresence s) .noChannelPresence
    bridgeDone
    brWritebyte Wire.romSkip
    brWritebyte Wire.readScratchpad
    let v ← readBytes p 9
    update (·.setSp v)
    pure v
  have k : rest.Continues :=
    continues_sampleStatus.bind fun _ => (continues_require _ _).bind fun _ => continues_bridgeDone.bind fun _ =>
      (continues_brWritebyte _).bind fun _ => (continues_brWritebyte _).bind fun _ =>
        (continues_readBytes p 9).bind fun _ => (continues_update (by exact fun _ => List.prefix_rfl)).bind fun _ =>
          Op.continues_pure _
  have e : readScratchpad p ⟨b, as⟩ = (busWrite [Wire.channelReset] >>= fun _ => rest)
      ⟨(b.setSnPhase .scratchpadRead).setBrPhase .brCommand, as⟩ := by
    simp only [readScratchpad, brResetch, sendCommand, bind_assoc]
    rfl
  rw [e] at h
  rcases as with _ | ⟨_ | _, as⟩
  · cases h
  · rw [Op.bind_ok (busWrite_reply _ _ _ _)] at h
    exact Nat.lt_succ_of_le (k.uses _ _ _ h)
  · cases h

theorem continues_scratchpadLoop (p : Params) : (fuel attempts : Nat) → (scratchpadLoop p fuel attempts).Continues
  | 0, _ => ⟨fun _ => List.prefix_rfl, fun _ _ _ => List.prefix_rfl, fun _ _ _ h => by cases h⟩
  | fuel + 1, attempts => by
    refine (continues_require _ _).bind fun _ => (continues_readScratchpad p).bind fun v => ?_
    split
    · exact (continues_update (by exact fun _ => List.prefix_rfl)).bind fun _ => Op.continues_pure _
    · exact (continues_update (by exact fun _ => List.prefix_rfl)).bind fun _ => continues_scratchpadLoop p fuel (attempts + 1)

/-- The loop's bound is never used up: any bound above the number of answers gives the same run. -/
theorem scratchpadLoop_fuel (p : Params) {m n attempts : Nat} {c : Ctx} (hm : c.answers.length < m)
    (hn : c.answers.length < n) : scratchpadLoop p m attempts c = scratchpadLoop p n attempts c := by
  induction m generalizing n attempts c with
  | zero => omega
  | succ m ih =>
    cases n with
    | zero => omega
    | succ n =>
      simp only [scratchpadLoop, Op.bind_apply]
      cases hr : require (decide (p.retryLimit ≠ some attempts)) .measurementFailed c with
      | error h c1 => rfl
      | ok a c1 =>
        have hc1 : c1 = c := by
          cases hd : decide (p.retryLimit ≠ some attempts) <;> rw [hd] at hr <;> cases hr; rfl
        subst hc1
        cases hs : readScratchpad p c1 with
        | error h c2 => simp only [hs]
        | ok v c2 =>
          have := readScratchpad_uses hs
          simp only [hs]
          cases recordValid p v.toList 8 with
          | true => rfl
          | false =>
            simp only [Bool.false_eq_true, if_false, Op.bind_apply, update_apply]
            exact ih (c := ⟨c2.block.setSnPhase .checksumInvalid, c2.answers⟩) (by simp; omega) (by simp; omega)

theorem continues_validScratchpad (p : Params) : (validScratchpad p).Continues := by
  have k := fun n => continues_scratchpadLoop p n 0
  refine ⟨fun c => (k _).grows c, fun b as more => ?_, fun c a c' h => (k _).uses c a c' h⟩
  have e : validScratchpad p ⟨b, as⟩ = scratchpadLoop p ((as ++ more).length + 1) 0 ⟨b, as⟩ :=
    scratchpadLoop_fuel p (Nat.lt_succ_self _) (by simp)
  rw [e]
  exact (k _).goes_on b as more

theorem continues_snMeasure (p : Params) : (snMeasure p).Continues :=
  (continues_triggerConversion p).bind fun _ => continues_look_bind fun _ => (continues_present _ _).bind fun _ =>
    ((continues_update (by exact fun _ => List.prefix_rfl)).bind fun _ => continues_delay _).bind fun _ =>
      (continues_validScratchpad p).bind fun _ => (continues_update (by exact fun _ => List.prefix_rfl)).bind fun _ =>
        (continues_update (by exact fun _ => List.prefix_rfl)).bind fun _ => Op.continues_pure _

theorem continues_ctEval (avg : Temp) : (ctEval avg).Continues :=
  continues_look_bind fun _ => (continues_require _ _).bind fun _ => continues_update (by exact fun _ => List.prefix_rfl)

theorem Block.history_putDrive (b : Block) (d : Drive) : b.history <+: (b.putDrive d).history := by
  unfold Block.putDrive
  dsimp only
  split
  · exact List.prefix_rfl
  · exact List.prefix_append _ _

theorem Block.history_record (p : Params) (b : Block) (v : Temp) : (b.record p v).history = b.history := by
  obtain ⟨win, sum, _, h⟩ := b.record_setWindow p v
  rw [h]; rfl

theorem continues_tickBody (p : Params) : (tickBody p).Continues :=
  (continues_snMeasure p).bind fun v => (continues_update (by exact fun _ => List.prefix_rfl)).bind fun _ =>
    (continues_update (by exact fun b => by rw [b.history_record])).bind fun _ => continues_look_bind fun _ =>
      (continues_present _ _).bind fun _ => (continues_ctEval _).bind fun _ =>
        (continues_update (by exact fun b => b.history_putDrive _)).bind fun _ => continues_update (by exact fun _ => List.prefix_append _ _)

theorem continues_noResult {op : Op Unit} (h : op.Continues) : (noResult op).Continues :=
  h.bind fun _ => Op.continues_pure _

/-- Taking the safe state only adds to the history. -/
theorem Block.history_safeState (b : Block) (e : Err) : b.history <+: (b.safeState e).history :=
  (b.history_putDrive .off).trans (List.prefix_append _ _)

/-! ### Performing, and performing again on more answers -/

variable {i : Instr} {reports : Bool} {op : Op (Option Value)} {s t t' : State} {p : InProgress}

/-- What performing records of an operation that waits: to run it again from its start on its answers and more is
to run it at once on all of them. -/
theorem perform_resume (h : perform i reports op s = .next t) (hs : s.busy = none) (hb : t.busy = some p)
    (more : List Stimulus) : p.instr = i ∧ p.start = s.block ∧ p.heard = (takeAnswers s.outside).1 ∧
      { t with block := p.start, busy := none, outside := p.heard.map Stimulus.answer ++ more }
        = { s with outside := p.heard.map Stimulus.answer ++ more } := by
  rcases @perform_cases i reports op s with ⟨v, c, _, hp⟩ | ⟨e, c, _, hp⟩ | ⟨c, _, hp⟩ | ⟨f, c, _, hp⟩ <;>
    rw [hp] at h <;> cases h <;> cases hb
  exact ⟨rfl, rfl, rfl, by rw [← hs]⟩

/-- Performing an operation only adds to the history. -/
theorem perform_history (k : op.Continues) (h : perform i reports op s = .next t) :
    s.block.history <+: t.block.history := by
  have g := k.grows ⟨s.block, (takeAnswers s.outside).1⟩
  rcases @perform_cases i reports op s with ⟨v, c, hc, hp⟩ | ⟨e, c, hc, hp⟩ | ⟨c, hc, hp⟩ | ⟨f, c, hc, hp⟩ <;>
    rw [hp] at h <;> rw [hc] at g <;> cases h
  · exact g
  · exact g.trans (Block.history_safeState _ _)
  · exact g

/-- What an operation had done when it waited stays done when more answers come. -/
theorem perform_more (k : op.Continues) {as : List Answer} {more : List Stimulus} {s' : State}
    (h : perform i reports op { s with outside := as.map .answer } = .next t) (hb : t.busy = some p)
    (hs : s'.block = s.block)
    (h' : perform i reports op { s' with outside := as.map .answer ++ more } = .next t') :
    t.block.history <+: t'.block.history := by
  have g := k.goes_on s.block as (takeAnswers more).1
  rcases @perform_cases i reports op { s with outside := as.map .answer } with
    ⟨v, c, _, hp⟩ | ⟨e, c, _, hp⟩ | ⟨c, hc, hp⟩ | ⟨f, c, _, hp⟩ <;> rw [hp] at h <;> cases h <;> cases hb
  simp only [takeAnswers_answers] at hc
  rw [hc] at g
  rcases @perform_cases i reports op { s' with outside := as.map .answer ++ more } with
    ⟨v, c', hc', hp⟩ | ⟨e, c', hc', hp⟩ | ⟨c', hc', hp⟩ | ⟨f, c', hc', hp⟩ <;>
    rw [hp] at h' <;> simp only [takeAnswers_append, hs] at hc' <;> simp only [Op.GoesOn, hc', finalBlock] at g <;>
    cases h'
  · exact g
  · exact g.trans (Block.history_safeState _ _)
  · exact g

end Sys2Proof.Machine
end

