-- ==== Sys2Proof/Laws/Conversation.lean ====
section
/-! SUPPORT. What an operation does on a conversation that goes well: it consumes exactly the answers of its
exchanges and leaves their statuses, configurations and events. One lemma per operation of the bridge driver,
and one per part of the sensor driver. -/

namespace Sys2Proof.Machine

variable {α β : Type}

/-- The registers after a conversation that went well, the bridge's sequencer idle. -/
def Block.spoke (p : Params) (b : Block) (xs : List Exchange) : Block :=
  (b.conversed p xs).setBrPhase .brIdle

theorem laterOf_append {γ : Type} (v : Option γ) (l m : List γ) :
    laterOf (laterOf v l.getLast?) m.getLast? = laterOf v (l ++ m).getLast? := by
  simp [laterOf, List.getLast?_append, Option.or_assoc]

theorem Block.spoke_spoke (p : Params) (b : Block) (xs ys : List Exchange) :
    (b.spoke p xs).spoke p ys = b.spoke p (xs ++ ys) := by
  simp only [Block.spoke, Block.conversed, Block.setBrPhase, laterOf_append, List.append_assoc, List.filterMap_append,
    List.flatMap_append]

theorem Block.spoke_setSnPhase (p : Params) (b : Block) (ph : SnPhase) (xs : List Exchange) :
    (b.setSnPhase ph).spoke p xs = (b.spoke p xs).setSnPhase ph := rfl

@[simp] theorem Block.spoke_parasitic (p : Params) (b : Block) (xs : List Exchange) :
    (b.spoke p xs).parasitic = b.parasitic := rfl
@[simp] theorem Block.spoke_resolution (p : Params) (b : Block) (xs : List Exchange) :
    (b.spoke p xs).resolution = b.resolution := rfl

/-- On the answers of the exchanges `xs`, from registers `b`, operation `x` returns `a` at registers `b'` and leaves
what follows them. -/
def Op.Hears (x : Op α) (b : Block) (xs : List Exchange) (a : α) (b' : Block) : Prop :=
  ∀ rest, x ⟨b, xs.flatMap Exchange.answers ++ rest⟩ = .ok a ⟨b', rest⟩

theorem Op.hears_pure (a : α) (b : Block) : (pure a : Op α).Hears b [] a b := fun _ => rfl

theorem Op.Hears.bind {x : Op α} {f : α → Op β} {b b₁ b₂ : Block} {xs ys : List Exchange} {a : α} {c : β}
    (h : x.Hears b xs a b₁) (h' : (f a).Hears b₁ ys c b₂) : (x >>= f).Hears b (xs ++ ys) c b₂ := by
  intro rest
  rw [List.flatMap_append, List.append_assoc, Op.bind_ok (h _)]
  exact h' rest

/-- A statement that hears nothing before an operation that does. -/
theorem Op.Hears.after_update {f : Block → Block} {x : Op α} {b b₁ : Block} {xs : List Exchange} {a : α}
    (h : x.Hears (f b) xs a b₁) : (update f >>= fun _ => x).Hears b xs a b₁ := fun rest => h rest

/-! ### The bridge operations -/

theorem hears_brReset (p : Params) (b : Block) {x : Exchange} (hc : x.call = .deviceReset) (hg : x.good = true) :
    brReset.Hears b [x] () (b.spoke p [x]) := by
  cases x <;> cases hc
  rename_i ack st
  intro rest
  have hg : stDevReset st = true := hg
  simp [brReset, sendCommand, sampleStatus, bridgeDone, Op.bind_apply, Exchange.answers, hg, Block.spoke,
    Block.conversed, Block.setBrPhase, Block.emit, Block.setLastStatus, Exchange.events, Exchange.status,
    Exchange.config, readEvent, laterOf]

theorem hears_brResetch (p : Params) (b : Block) {x : Exchange} (hc : x.call = .channelReset) (hg : x.good = true) :
    brResetch.Hears b [x] () (b.spoke p [x]) := by
  cases x <;> cases hc
  rename_i ack st
  intro rest
  have hg : stPresence st = true := hg
  simp [brResetch, sendCommand, sampleStatus, bridgeDone, Op.bind_apply, Exchange.answers, hg, Block.spoke,
    Block.conversed, Block.setBrPhase, Block.emit, Block.setLastStatus, Exchange.events, Exchange.status,
    Exchange.config, readEvent, laterOf]

theorem hears_brWritecfg (p : Params) (b : Block) {x : Exchange} {bits : Nibble} (hc : x.call = .configure bits) :
    (brWritecfg bits).Hears b [x] () (b.spoke p [x]) := by
  cases x <;> cases hc
  intro rest
  simp [brWritecfg, sendCommand, bridgeDone, Op.bind_apply, Exchange.answers, Block.spoke,
    Block.conversed, Block.setBrPhase, Block.emit, Block.setCfgShadow, Exchange.events, Exchange.status,
    Exchange.config, laterOf]

theorem hears_brReadbit (p : Params) (b : Block) {x : Exchange} {bit : Bool} (hc : x.call = .singleBit)
    (hb : x.bit = some bit) : (brReadbit p).Hears b [x] bit (b.spoke p [x]) := by
  cases x <;> cases hc
  cases hb
  intro rest
  simp [brReadbit, sendCommand, sampleStatus, bridgeDone, Op.bind_apply, Op.map_apply, Exchange.answers, Block.spoke,
    Block.conversed, Block.setBrPhase, Block.emit, Block.setLastStatus, Exchange.events, Exchange.status,
    Exchange.config, readEvent, laterOf]

theorem hears_delay (p : Params) (b : Block) {x : Exchange} {ms : ℚ} (hc : x.call = .wait ms)
    (hb : b.brPhase = .brIdle) : (delay ms).Hears b [x] () (b.spoke p [x]) := by
  cases x <;> cases hc
  intro rest
  simp [Exchange.answers, Block.spoke, Block.conversed, Block.setBrPhase, Block.emit, Exchange.events,
    Exchange.status, Exchange.config, laterOf, ← hb]

theorem hears_brWritebyte (p : Params) (b : Block) {x : Exchange} {d : Byte} (hc : x.call = .send d)
    (hg : x.good = true) : (brWritebyte d).Hears b [x] () (b.spoke p [x]) := by
  cases x <;> cases hc
  rename_i ack busy last
  intro rest
  have hg : (busy.all stBusy && !stBusy last) = true := hg
  simp only [Bool.and_eq_true, Bool.not_eq_true'] at hg
  have e : [Exchange.send d ack busy last].flatMap Exchange.answers ++ rest
      = .reply ack :: (busy.map .reply ++ .reply last :: rest) := by
    simp [Exchange.answers]
  rw [e]
  simp [brWritebyte, sendCommand, waitNotBusy, bridgeDone, Op.bind_apply, poll_good _ _ _ _ hg.1 hg.2,
    Block.polled_eq, Block.spoke, Block.conversed, Block.setBrPhase, Block.emit, Exchange.events, Exchange.status,
    Exchange.config, laterOf]

theorem hears_brReadbyte (p : Params) (b : Block) {x : Exchange} {d : Byte} (hc : x.call = .fetch)
    (hd : x.data = some d) (hg : x.good = true) : (brReadbyte p).Hears b [x] d (b.spoke p [x]) := by
  cases x <;> cases hc
  cases hd
  rename_i ack busy last ack2
  intro rest
  have hg : (busy.all stBusy && !stBusy last) = true := hg
  simp only [Bool.and_eq_true, Bool.not_eq_true'] at hg
  have e : [Exchange.fetch ack busy last ack2 d].flatMap Exchange.answers ++ rest
      = .reply ack :: (busy.map .reply ++ .reply last :: .reply ack2 :: .reply d :: rest) := by
    simp [Exchange.answers]
  rw [e]
  simp [brReadbyte, sendCommand, waitNotBusy, bridgeDone, Op.bind_apply, Op.map_apply, poll_good _ _ _ _ hg.1 hg.2,
    Block.polled_eq, Block.spoke, Block.conversed, Block.setBrPhase, Block.emit, Exchange.events, Exchange.status,
    Exchange.config, laterOf, readEvent]

/-! ### The sensor operations

Each starts where an earlier exchange has left the bridge's sequencer idle, and says how the whole conversation
so far has gone on. -/

/-- A conversation that serves two lists of calls falls into two. -/
theorem Serves.split {xs : List Exchange} {cs ds : List Call} (h : Serves xs (cs ++ ds)) :
    ∃ ys zs, xs = ys ++ zs ∧ Serves ys cs ∧ Serves zs ds := by
  obtain ⟨hc, hg⟩ := h
  obtain ⟨ys, zs, rfl, hy, hz⟩ := List.map_eq_append_iff.mp hc
  exact ⟨ys, zs, rfl, ⟨hy, fun x hx => hg x (List.mem_append_left _ hx)⟩,
    ⟨hz, fun x hx => hg x (List.mem_append_right _ hx)⟩⟩

/-- A conversation that serves a call and more begins with an exchange for that call. -/
theorem Serves.cons {xs : List Exchange} {c : Call} {ds : List Call} (h : Serves xs (c :: ds)) :
    ∃ x zs, xs = x :: zs ∧ x.call = c ∧ x.good = true ∧ Serves zs ds := by
  obtain ⟨hc, hg⟩ := h
  cases xs with
  | nil => cases hc
  | cons x zs =>
    simp only [List.map_cons, List.cons.injEq] at hc
    exact ⟨x, zs, rfl, hc.1, hg x (by simp), hc.2, fun y hy => hg y (by simp [hy])⟩

theorem Serves.nil {xs : List Exchange} (h : Serves xs []) : xs = [] := List.map_eq_nil_iff.mp h.1

/-- Only a fetch has a data byte. -/
theorem data_of_not_fetch {x : Exchange} (h : x.call ≠ .fetch) : x.data = none := by
  cases x <;> first | rfl | exact absurd rfl h

/-- Only a single-bit read has a bit. -/
theorem bit_of_not_singleBit {x : Exchange} (h : x.call ≠ .singleBit) : x.bit = none := by
  cases x <;> first | rfl | exact absurd rfl h

theorem hears_readBytes (p : Params) (b : Block) : (n : Nat) → {xs : List Exchange} → (ws : List Exchange) →
    Serves xs (List.replicate n .fetch) → {v : Vector Byte n} → xs.filterMap Exchange.data = v.toList →
    (readBytes p n).Hears (b.spoke p ws) xs v (b.spoke p (ws ++ xs))
  | 0, xs, ws, h, v, _ => by
    rw [h.nil, List.append_nil, show v = #v[] from by simp]
    exact Op.hears_pure _ _
  | n + 1, xs, ws, h, v, hv => by
    rw [List.replicate_succ'] at h
    obtain ⟨ys, zs, rfl, hy, hz⟩ := h.split
    obtain ⟨x, ts, rfl, hc, hg, ht⟩ := hz.cons
    obtain rfl := ht.nil
    have hd : ∃ d, x.data = some d := by
      cases x <;> first | exact ⟨_, rfl⟩ | cases hc
    obtain ⟨d, hd⟩ := hd
    rw [List.filterMap_append, List.filterMap_cons_some hd, List.filterMap_nil] at hv
    have hp : v = v.pop.push v.back := by simp
    have hl : v.toList = v.pop.toList ++ [v.back] := by
      exact (congrArg Vector.toList hp).trans Vector.toList_push
    rw [hl] at hv
    obtain ⟨h1, h2⟩ := List.append_inj' hv rfl
    obtain rfl : d = v.back := by simpa using h2
    rw [hp, ← List.append_assoc, ← Block.spoke_spoke p b (ws ++ ys)]
    have h3 := (hears_readBytes p b n ws hy h1).bind
      (f := fun w => brReadbyte p >>= fun d => pure (w.push d)) (by
        have := (hears_brReadbyte p (b.spoke p (ws ++ ys)) hc hd hg).bind (f := fun d => pure (v.pop.push d))
          (Op.hears_pure _ _)
        exact this)
    exact h3

theorem hears_select (p : Params) (b : Block) {xs : List Exchange} (h : Serves xs [.channelReset, .send 0xCC]) :
    select.Hears b xs () (b.spoke p xs) := by
  obtain ⟨x, _, rfl, hc, hg, h⟩ := h.cons
  obtain ⟨y, _, rfl, hc', hg', h⟩ := h.cons
  obtain rfl := h.nil
  have := (hears_brResetch p b hc hg).bind (f := fun _ => brWritebyte Wire.romSkip)
    (hears_brWritebyte p (b.spoke p [x]) hc' hg')
  rwa [Block.spoke_spoke] at this

theorem hears_strongPullup (p : Params) (b : Block) (par : Bool) (ws : List Exchange) {xs : List Exchange}
    (h : Serves xs (strongPullupCalls p par)) :
    (strongPullup p par).Hears (b.spoke p ws) xs () (b.spoke p (ws ++ xs)) := by
  cases par with
  | false =>
    obtain rfl := h.nil
    rw [List.append_nil]
    exact Op.hears_pure _ _
  | true =>
    obtain ⟨x, _, rfl, hc, _, h⟩ := h.cons
    obtain rfl := h.nil
    rw [← Block.spoke_spoke]
    exact hears_brWritecfg p _ hc

theorem hears_send (p : Params) (b : Block) (d : Byte) (ws : List Exchange) {x : Exchange} (hc : x.call = .send d)
    (hg : x.good = true) : (brWritebyte d).Hears (b.spoke p ws) [x] () (b.spoke p (ws ++ [x])) := by
  rw [← Block.spoke_spoke]
  exact hears_brWritebyte p _ hc hg

/-- Operation `x`, begun where the conversation `ws` has left things, hears `xs` and returns `a`. -/
def Op.Talks (p : Params) (b : Block) (ws : List Exchange) (x : Op α) (xs : List Exchange) (a : α) : Prop :=
  x.Hears (b.spoke p ws) xs a (b.spoke p (ws ++ xs))

variable {p : Params} {b : Block} {ws : List Exchange}

theorem Op.Talks.bind {x : Op α} {f : α → Op β} {xs ys : List Exchange} {a : α} {c : β}
    (h : Op.Talks p b ws x xs a) (h' : Op.Talks p b (ws ++ xs) (f a) ys c) :
    Op.Talks p b ws (x >>= f) (xs ++ ys) c := by
  unfold Op.Talks at *
  rw [List.append_assoc] at h'
  exact Op.Hears.bind h h'

theorem Op.talks_pure (a : α) : Op.Talks p b ws (pure a) [] a := by
  unfold Op.Talks
  rw [List.append_nil]
  exact Op.hears_pure _ _

theorem Op.talks_require {g : Bool} {e : Err} (h : g = true) : Op.Talks p b ws (require g e) [] () := by
  subst h
  exact Op.talks_pure ()

theorem talks_send {d : Byte} {x : Exchange} (hc : x.call = .send d) (hg : x.good = true) :
    Op.Talks p b ws (brWritebyte d) [x] () := hears_send p b d ws hc hg

theorem talks_readBytes {n : Nat} {xs : List Exchange} {v : Vector Byte n} (h : Serves xs (List.replicate n .fetch))
    (hv : xs.filterMap Exchange.data = v.toList) : Op.Talks p b ws (readBytes p n) xs v :=
  hears_readBytes p b n ws h hv

theorem talks_strongPullup {par : Bool} {xs : List Exchange} (h : Serves xs (strongPullupCalls p par)) :
    Op.Talks p b ws (strongPullup p par) xs () := hears_strongPullup p b par ws h

theorem talks_reset {x : Exchange} (hc : x.call = .deviceReset) (hg : x.good = true) :
    Op.Talks p b ws brReset [x] () := by
  unfold Op.Talks
  rw [← Block.spoke_spoke]
  exact hears_brReset p _ hc hg

theorem talks_resetch {x : Exchange} (hc : x.call = .channelReset) (hg : x.good = true) :
    Op.Talks p b ws brResetch [x] () := by
  unfold Op.Talks
  rw [← Block.spoke_spoke]
  exact hears_brResetch p _ hc hg

theorem talks_readbit {x : Exchange} {bit : Bool} (hc : x.call = .singleBit) (hb : x.bit = some bit) :
    Op.Talks p b ws (brReadbit p) [x] bit := by
  unfold Op.Talks
  rw [← Block.spoke_spoke]
  exact hears_brReadbit p _ hc hb

theorem talks_delay {x : Exchange} {ms : ℚ} (hc : x.call = .wait ms) : Op.Talks p b ws (delay ms) [x] () := by
  unfold Op.Talks
  rw [← Block.spoke_spoke]
  exact hears_delay p _ hc rfl

theorem talks_select {xs : List Exchange} (h : Serves xs [.channelReset, .send 0xCC]) :
    Op.Talks p b ws select xs () := by
  unfold Op.Talks
  rw [← Block.spoke_spoke]
  exact hears_select p _ h

/-- The ROM read up to its checksum test (rule R135). -/
theorem talks_romBytes {xs : List Exchange} {rom : Vector Byte 8} (h : Serves xs readRomCalls)
    (hd : xs.filterMap Exchange.data = rom.toList) :
    Op.Talks p b ws (do brResetch; brWritebyte Wire.romRead; readBytes p 8) xs rom := by
  obtain ⟨x, _, rfl, hc, hg, h⟩ := Serves.cons h
  obtain ⟨y, _, rfl, hc', hg', h⟩ := Serves.cons h
  rw [List.filterMap_cons_none (data_of_not_fetch (by rw [hc]; exact nofun)),
    List.filterMap_cons_none (data_of_not_fetch (by rw [hc']; exact nofun))] at hd
  exact (talks_resetch hc hg).bind ((talks_send hc' hg').bind (talks_readBytes h hd))

theorem talks_readRom {xs : List Exchange} {rom : Vector Byte 8} (h : Serves xs readRomCalls)
    (hd : xs.filterMap Exchange.data = rom.toList) (hv : recordValid p rom.toList 7 = true) :
    Op.Talks p b ws (readRom p) xs rom := by
  have := (talks_romBytes h hd : Op.Talks p b ws _ _ _).bind
    (f := fun r => do require (recordValid p r.toList 7) .romChecksumInvalid; pure r)
    ((Op.talks_require hv).bind (Op.talks_pure rom))
  simpa [readRom] using this

theorem talks_probePower {xs : List Exchange} {par : Bool} (h : Serves xs probePowerCalls)
    (hb : xs.filterMap Exchange.bit = [!par]) : Op.Talks p b ws (probePower p) xs par := by
  obtain ⟨ys, _, rfl, hs, h⟩ := Serves.split (cs := [.channelReset, .send 0xCC]) (ds := [.send 0xB4, .singleBit]) h
  obtain ⟨y, _, rfl, hc', hg', h⟩ := Serves.cons h
  obtain ⟨z, _, rfl, hc'', hg'', h⟩ := Serves.cons h
  obtain rfl := h.nil
  have hz : z.bit = some (!par) := by
    have hy : ys.filterMap Exchange.bit = [] := by
      obtain ⟨u, _, rfl, hcu, _, h⟩ := Serves.cons hs
      obtain ⟨v, _, rfl, hcv, _, h⟩ := Serves.cons h
      obtain rfl := h.nil
      simp [bit_of_not_singleBit (show u.call ≠ .singleBit by rw [hcu]; exact nofun),
        bit_of_not_singleBit (show v.call ≠ .singleBit by rw [hcv]; exact nofun)]
    rw [List.filterMap_append, hy, List.nil_append,
      List.filterMap_cons_none (bit_of_not_singleBit (by rw [hc']; exact nofun))] at hb
    cases hzb : z.bit with
    | none => simp [hzb] at hb
    | some v => simpa [hzb] using hb
  have r : Op.Talks p b (ws ++ ys ++ [y]) (do let bit ← brReadbit p; pure (!bit)) [z] par := by
    have r' := (talks_readbit (p := p) (b := b) (ws := ws ++ ys ++ [y]) hc'' hz).bind (f := fun bit => pure (!bit))
      (Op.talks_pure (!!par))
    rw [Bool.not_not] at r'
    exact r'
  exact (talks_select hs).bind ((talks_send hc' hg').bind r)

theorem talks_writeResolution {xs : List Exchange} {res : ResCode} (h : Serves xs (writeResolutionCalls res)) :
    Op.Talks p b ws (writeResolution res) xs () := by
  obtain ⟨ys, _, rfl, hs, h⟩ := Serves.split (cs := [.channelReset, .send 0xCC])
    (ds := [.send 0x4E, .send 0x00, .send 0x00, .send (resByte res)]) h
  obtain ⟨y1, _, rfl, hc1, hg1, h⟩ := Serves.cons h
  obtain ⟨y2, _, rfl, hc2, hg2, h⟩ := Serves.cons h
  obtain ⟨y3, _, rfl, hc3, hg3, h⟩ := Serves.cons h
  obtain ⟨y4, _, rfl, hc4, hg4, h⟩ := Serves.cons h
  obtain rfl := h.nil
  exact (talks_select hs).bind ((talks_send hc1 hg1).bind
    ((talks_send hc2 hg2).bind
      ((talks_send hc3 hg3).bind (talks_send hc4 hg4))))

theorem talks_copyToEeprom {xs : List Exchange} {par : Bool} (h : Serves xs (copyToEepromCalls p par)) :
    Op.Talks p b ws (copyToEeprom p par) xs () := by
  unfold copyToEepromCalls at h
  rw [List.append_assoc, List.append_assoc] at h
  obtain ⟨ys, _, rfl, hs, h⟩ := Serves.split h
  obtain ⟨zs, _, rfl, hp, h⟩ := Serves.split h
  obtain ⟨x, ts, rfl, hc, hg, h⟩ := Serves.cons h
  refine (talks_select hs).bind ((talks_strongPullup hp).bind
    ((talks_send hc hg).bind ?_))
  cases par with
  | false => obtain rfl := h.nil; exact Op.talks_pure ()
  | true =>
    obtain ⟨y, _, rfl, hc', _, h⟩ := Serves.cons h
    obtain rfl := h.nil
    exact talks_delay hc'

/-! ### The measurement -/

theorem hears_triggerConversion (p : Params) (b : Block) {xs : List Exchange} {par : Bool}
    (hpar : b.parasitic = some par)
    (h : Serves xs ([.channelReset, .send 0xCC] ++ strongPullupCalls p par ++ [.send 0x44])) :
    (triggerConversion p).Hears b xs () ((b.spoke p xs).setSnPhase .convertTriggered) := by
  rw [List.append_assoc] at h
  obtain ⟨x, _, rfl, hc, hg, h⟩ := Serves.cons h
  obtain ⟨y, _, rfl, hc', hg', h⟩ := Serves.cons h
  change Serves _ (strongPullupCalls p par ++ [.send 0x44]) at h
  obtain ⟨zs, _, rfl, hp, h⟩ := Serves.split h
  obtain ⟨w, _, rfl, hcw, hgw, h⟩ := Serves.cons h
  obtain rfl := h.nil
  have t1 := hears_brResetch p (b.setSnPhase .busReset) hc hg
  have t2 := hears_brWritebyte p (((b.setSnPhase .busReset).spoke p [x]).setSnPhase .broadcast) hc' hg'
  have t3 := hears_strongPullup p ((b.setSnPhase .busReset).setSnPhase .broadcast) par [x, y] hp
  have t4 := hears_brWritebyte p ((((b.setSnPhase .busReset).setSnPhase .broadcast).spoke p ([x, y] ++ zs)).setSnPhase
    .convertTriggered) hcw hgw
  have e2 : (((b.setSnPhase .busReset).spoke p [x]).setSnPhase .broadcast).spoke p [y]
      = ((b.setSnPhase .busReset).setSnPhase .broadcast).spoke p [x, y] := by
    rw [← Block.spoke_setSnPhase, Block.spoke_spoke]; rfl
  have e4 : ((((b.setSnPhase .busReset).setSnPhase .broadcast).spoke p ([x, y] ++ zs)).setSnPhase
      .convertTriggered).spoke p [w] = (b.spoke p ([x] ++ ([y] ++ (zs ++ [w])))).setSnPhase .convertTriggered := by
    rw [← Block.spoke_setSnPhase, Block.spoke_spoke]
    simp [Block.spoke, Block.conversed, Block.setBrPhase, Block.setSnPhase]
  rw [e2] at t2
  rw [e4] at t4
  have tail : Op.Hears (do
      let b ← look
      let parasitic ← present .parasitic b.parasitic
      strongPullup p parasitic
      update (·.setSnPhase .convertTriggered)
      brWritebyte Wire.convert) (((b.setSnPhase .busReset).setSnPhase .broadcast).spoke p [x, y]) (zs ++ [w]) ()
      ((b.spoke p ([x] ++ ([y] ++ (zs ++ [w])))).setSnPhase .convertTriggered) := by
    intro rest
    have hpar' : (((b.setSnPhase .busReset).setSnPhase .broadcast).spoke p [x, y]).parasitic = some par := hpar
    rw [Op.bind_ok (look_apply _), hpar', Op.bind_ok (present_some _ _ _)]
    exact t3.bind (f := fun _ => update (·.setSnPhase .convertTriggered) >>= fun _ => brWritebyte Wire.convert)
      t4.after_update rest
  exact (t1.bind (t2.bind tail).after_update).after_update

theorem hears_readScratchpad (p : Params) (b : Block) (ws : List Exchange) {xs : List Exchange} {sp : Vector Byte 9}
    (h : Serves xs readScratchpadCalls) (hd : xs.filterMap Exchange.data = sp.toList) :
    (readScratchpad p).Hears (b.spoke p ws) xs sp
      (((b.spoke p (ws ++ xs)).setSnPhase .scratchpadRead).setSp sp) := by
  obtain ⟨x, _, rfl, hc, hg, h⟩ := Serves.cons h
  obtain ⟨y, _, rfl, hc', hg', h⟩ := Serves.cons h
  obtain ⟨z, zs, rfl, hc'', hg'', h⟩ := Serves.cons h
  rw [List.filterMap_cons_none (data_of_not_fetch (by rw [hc]; exact nofun)),
    List.filterMap_cons_none (data_of_not_fetch (by rw [hc']; exact nofun)),
    List.filterMap_cons_none (data_of_not_fetch (by rw [hc'']; exact nofun))] at hd
  have t : Op.Talks p (b.setSnPhase .scratchpadRead) ws (do
      brResetch
      brWritebyte Wire.romSkip
      brWritebyte Wire.readScratchpad
      readBytes p 9) (x :: y :: z :: zs) sp :=
    (talks_resetch hc hg).bind ((talks_send hc' hg').bind
      ((talks_send hc'' hg'').bind (talks_readBytes h hd)))
  have r := Op.Hears.bind t (f := fun v => update (·.setSp v) >>= fun _ => pure v)
    ((Op.hears_pure sp (((b.spoke p (ws ++ (x :: y :: z :: zs))).setSnPhase .scratchpadRead).setSp sp)).after_update
      (f := fun b => b.setSp sp))
  rw [List.append_nil] at r
  intro rest
  have := r rest
  simp only [bind_assoc] at this
  exact this

/-! ### Performing on a conversation -/

/-- An operation that hears what the outside world says next returns. -/
theorem perform_hears {i : Instr} {op : Op (Option Value)} {s : State} {xs : List Exchange} {later : List Stimulus}
    {v : Option Value} {b' : Block} (h : op.Hears s.block xs v b') (hs : s.Hears xs later) :
    perform i true op s = .next (s.returned b' later v) := by
  have := h (takeAnswers later).1
  simp only [perform, hs, takeAnswers_append, this, takeAnswers_join, State.returned, if_true]

/-- An operation that raises after hearing what the outside world says next ends in the safe state. -/
theorem perform_raises {i : Instr} {op : Op (Option Value)} {s : State} {xs : List Exchange} {later : List Stimulus}
    {e : Err} {b' : Block}
    (h : ∀ rest, op ⟨s.block, xs.flatMap Exchange.answers ++ rest⟩ = .error (.raised e) ⟨b'.idlePhases, rest⟩)
    (hs : s.Hears xs later) : perform i true op s = .next (s.failed b' later e) := by
  have := h (takeAnswers later).1
  simp only [perform, hs, takeAnswers_append, this, takeAnswers_join, State.failed, if_true]

end Sys2Proof.Machine
end

