-- ==== Sys2Proof/Laws/Operands.lean ====
section
/-! SUPPORT. The operand forms, the codes and the status flags, one lemma each. -/

namespace Sys2Proof

/-- The line that carries a rational is read back as that rational (log entry 6). -/
@[simp] theorem TempLine.signed_ofTemp (q : Temp) : (TempLine.ofTemp q).signed = q := by
  have hd : q.den - 1 + 1 = q.den := Nat.sub_add_cancel q.den_pos
  have hn : (if q.num < 0 then -((q.num.natAbs : Nat) : Int) else (q.num.natAbs : Int)) = q.num := by
    split <;> omega
  simp only [TempLine.signed, TempLine.ofTemp, hd, decide_eq_true_eq, hn, Rat.mkRat_self]

/-- What `cfgbyte` builds is nibble-doubled, and its low nibble is what it was built of (rule R74). -/
theorem cfgByte_legal (bits : Nibble) : NibbleDoubled (cfgByte bits) = true ∧ (cfgByte bits).setWidth 4 = bits := by
  revert bits; decide +kernel

/-- Every nibble-doubled byte is the `cfgbyte` of its low nibble (rule R74). -/
theorem cfgByte_of_legal {c : Byte} (h : NibbleDoubled c = true) : cfgByte (c.setWidth 4) = c := by
  revert c; decide +kernel

/-- A write-configuration is read back as its bits (rule R74). -/
theorem decode_writecfg (bits : Nibble) : decode (.bus [0xD2, cfgByte bits]) = .ok (.bcWritecfg bits) := by
  revert bits; decide +kernel

namespace Machine

/-- A flag is one bit of the status byte (rule R72). -/
theorem statusBit_eq (k : Fin 8) (s : Byte) : statusBit (BitVec.ofNat 8 (2 ^ k.val)) s = s.getLsbD k := by
  revert k s; decide +kernel

theorem stBusy_eq (s : Byte) : stBusy s = s.getLsbD 0 := statusBit_eq 0 s

theorem stPresence_eq (s : Byte) : stPresence s = s.getLsbD 1 := statusBit_eq 1 s

theorem stDevReset_eq (s : Byte) : stDevReset s = s.getLsbD 4 := statusBit_eq 4 s

theorem stSingleBit_eq (s : Byte) : stSingleBit s = s.getLsbD 5 := statusBit_eq 5 s

/-- `RoundT` is the identity unless a parameter says otherwise (rule R12). -/
theorem roundT_none {p : Params} (h : p.rounding = none) (t : Temp) : roundT p t = t := by
  simp [roundT, h]

/-- A mode's code names that mode (rule R86). -/
@[simp] theorem Mode.ofCode_code (m : Mode) : Mode.ofCode m.code = m := by cases m <;> rfl

end Machine

end Sys2Proof
end

