-- ==== Sys2Proof/Laws/Writes.lean ====
section
/-! SUPPORT. What an operation may add to the event history: `Op.Adds` with one rule per statement. -/

namespace Sys2Proof.Machine

variable {α β : Type} {ok : Event → Bool}

/-- `b'` has the history of `b` and events of kind `ok` after it. -/
def Block.Added (ok : Event → Bool) (b b' : Block) : Prop :=
  ∃ l, b'.history = b.history ++ l ∧ l.all ok = true

theorem Block.Added.same {b b' : Block} (h : b'.history = b.history) : Block.Added ok b b' := ⟨[], by simp [h], rfl⟩

theorem Block.Added.one {b b' : Block} {e : Event} (h : b'.history = b.history ++ [e]) (he : ok e = true) :
    Block.Added ok b b' := ⟨[e], h, by simp [he]⟩

theorem Block.Added.trans {b c d : Block} (h : Block.Added ok b c) (k : Block.Added ok c d) : Block.Added ok b d := by
  obtain ⟨l, hl, al⟩ := h
  obtain ⟨m, hm, am⟩ := k
  exact ⟨l ++ m, by rw [hm, hl, List.append_assoc], by simp [al, am]⟩

/-- Entering the safe state adds at most a change of `drive`, and the notification (rule R222). -/
theorem Block.added_safeState (b : Block) (e : Err) (hd : ok (.drive .off) = true) (hn : ok (.notify (.fatalError e)) = true) :
    Block.Added ok b (b.safeState e) := by
  unfold Block.safeState Block.putDrive Block.emit
  by_cases h : b.drive = .off
  · exact ⟨[.notify (.fatalError e)], by simp [h], by simp [hn]⟩
  · exact ⟨[.drive .off, .notify (.fatalError e)], by simp [h], by simp [hd, hn]⟩

/-- A run that began at `b` has added only events of kind `ok`, however it ended. -/
def Op.Added (ok : Event → Bool) (b : Block) (r : EStateM.Result Halt Ctx α) : Prop :=
  match r with
  | .ok _ c => Block.Added ok b c.block
  | .error _ c => Block.Added ok b c.block

/-- However `x` ends, it has added only events of kind `ok`. -/
def Op.Adds (ok : Event → Bool) (x : Op α) : Prop := ∀ c, Op.Added ok c.block (x c)

theorem Op.adds_pure (a : α) : (pure a : Op α).Adds ok := fun _ => Block.Added.same rfl

theorem Op.Adds.bind {x : Op α} {f : α → Op β} (hx : x.Adds ok) (hf : ∀ a, (f a).Adds ok) : (x >>= f).Adds ok := by
  intro c
  have h := hx c
  rw [Op.bind_apply]
  rcases hr : x c with ⟨a, c'⟩ | ⟨e, c'⟩ <;> simp only [hr, Op.Added] at h ⊢
  · have k := hf a c'
    rcases hr' : f a c' with ⟨b, c''⟩ | ⟨e, c''⟩ <;> simp only [hr', Op.Added] at k ⊢ <;> exact h.trans k
  · exact h

theorem adds_update {f : Block → Block} (h : ∀ b, (f b).history = b.history) : (update f).Adds ok := fun _ => Block.Added.same (h _)

theorem adds_look : look.Adds ok := fun _ => Block.Added.same rfl

theorem adds_require (g : Bool) (e : Err) : (require g e).Adds ok := by cases g <;> exact fun _ => Block.Added.same rfl

theorem adds_present (r : Absent) (v : Option α) : (present r v).Adds ok := by cases v <;> exact fun _ => Block.Added.same rfl

theorem adds_busWrite {bytes : List Byte} (h : ∀ r, ok (.busWrite bytes r) = true) : (busWrite bytes).Adds ok := by
  rintro ⟨b, as⟩
  match as with
  | [] => exact Block.Added.same rfl
  | .reply _ :: _ => exact Block.Added.one rfl (h true)
  | .timeout :: _ => exact Block.Added.one rfl (h false)

theorem adds_busRead (h : ∀ r, ok (.busRead r) = true) : busRead.Adds ok := by
  rintro ⟨b, as⟩
  match as with
  | [] => exact Block.Added.same rfl
  | .reply d :: _ => exact Block.Added.one rfl (h (some d))
  | .timeout :: _ => exact Block.Added.one rfl (h none)

theorem adds_delay {ms : ℚ} (h : ok (.delay ms) = true) : (delay ms).Adds ok := by
  rintro ⟨b, as⟩
  cases as with
  | nil => exact Block.Added.same rfl
  | cons a as => exact Block.Added.one rfl h

theorem adds_status (h : ∀ r, ok (.busRead r) = true) : status.Adds ok :=
  (adds_busRead h).bind fun _ => (adds_update (by exact fun _ => rfl)).bind fun _ => Op.adds_pure _

theorem adds_poll (h : ∀ r, ok (.busRead r) = true) : poll.Adds ok := by
  rintro ⟨b, as⟩
  show Op.Added ok b (pollFrom as b)
  induction as generalizing b with
  | nil => exact Block.Added.same rfl
  | cons a as ih =>
    cases a with
    | timeout => exact Block.Added.one rfl (h none)
    | reply s =>
      have step : Block.Added ok b ((b.emit (.busRead (some s))).setLastStatus s) := Block.Added.one rfl (h (some s))
      unfold pollFrom
      cases stBusy s with
      | false => exact step
      | true =>
        have k := ih ((b.emit (.busRead (some s))).setLastStatus s)
        simp only [if_true]
        rcases hr : pollFrom as ((b.emit (.busRead (some s))).setLastStatus s) with ⟨_, c⟩ | ⟨_, c⟩ <;>
          simp only [hr, Op.Added] at k ⊢ <;> exact step.trans k

/-! ## The bridge operations, by what they write -/

theorem adds_brReset (hr : ∀ r, ok (.busRead r) = true) (hw : ∀ r, ok (.busWrite [0xF0] r) = true) : brReset.Adds ok :=
  ((adds_update (by exact fun _ => rfl)).bind fun _ => adds_busWrite hw).bind fun _ =>
    ((adds_update (by exact fun _ => rfl)).bind fun _ => adds_status hr).bind fun _ =>
      (adds_require _ _).bind fun _ => adds_update (by exact fun _ => rfl)

theorem adds_brResetch (hr : ∀ r, ok (.busRead r) = true) (hw : ∀ r, ok (.busWrite [0xB4] r) = true) : brResetch.Adds ok :=
  ((adds_update (by exact fun _ => rfl)).bind fun _ => adds_busWrite hw).bind fun _ =>
    ((adds_update (by exact fun _ => rfl)).bind fun _ => adds_status hr).bind fun _ =>
      (adds_require _ _).bind fun _ => adds_update (by exact fun _ => rfl)

theorem adds_brWritecfg {bits : Nibble} (hw : ∀ r, ok (.busWrite [0xD2, cfgByte bits] r) = true) : (brWritecfg bits).Adds ok :=
  ((adds_update (by exact fun _ => rfl)).bind fun _ => adds_busWrite hw).bind fun _ =>
    (adds_update (by exact fun _ => rfl)).bind fun _ => adds_update (by exact fun _ => rfl)

theorem adds_brWritebyte {d : Byte} (hr : ∀ r, ok (.busRead r) = true) (hw : ∀ r, ok (.busWrite [0xA5, d] r) = true) :
    (brWritebyte d).Adds ok :=
  ((adds_update (by exact fun _ => rfl)).bind fun _ => adds_busWrite hw).bind fun _ =>
    ((adds_update (by exact fun _ => rfl)).bind fun _ => adds_poll hr).bind fun _ => adds_update (by exact fun _ => rfl)

theorem adds_brReadbit {p : Params} (hr : ∀ r, ok (.busRead r) = true) (hw : ∀ r, ok (.busWrite [0x87, p.bitTiming] r) = true) :
    (brReadbit p).Adds ok :=
  ((adds_update (by exact fun _ => rfl)).bind fun _ => adds_busWrite hw).bind fun _ =>
    ((adds_update (by exact fun _ => rfl)).bind fun _ => adds_status hr).bind fun _ =>
      (adds_update (by exact fun _ => rfl)).bind fun _ => Op.adds_pure _

theorem adds_brReadbyte {p : Params} (hr : ∀ r, ok (.busRead r) = true) (hw : ∀ r, ok (.busWrite [0x96] r) = true)
    (hp : ∀ r, ok (.busWrite [0xE1, p.ptrData] r) = true) : (brReadbyte p).Adds ok :=
  ((adds_update (by exact fun _ => rfl)).bind fun _ => adds_busWrite hw).bind fun _ =>
    ((adds_update (by exact fun _ => rfl)).bind fun _ => adds_poll hr).bind fun _ =>
      (adds_update (by exact fun _ => rfl)).bind fun _ => (adds_busWrite hp).bind fun _ =>
        (adds_update (by exact fun _ => rfl)).bind fun _ => (adds_busRead hr).bind fun _ =>
          (adds_update (by exact fun _ => rfl)).bind fun _ => Op.adds_pure _

theorem adds_readBytes {p : Params} (h : (brReadbyte p).Adds ok) : (n : Nat) → (readBytes p n).Adds ok
  | 0 => Op.adds_pure _
  | n + 1 => (adds_readBytes h n).bind fun _ => h.bind fun _ => Op.adds_pure _

end Sys2Proof.Machine
end

