-- ==== Sys2Proof/Machine/Trace.lean ====
section
/-! DEFINITION. The written form of an event history (30_encoding.md rule R99): one event a line. Nothing
in the machine depends on it. How a rational is written is the model's choice (log entry 33). -/

namespace Sys2Proof.Machine

/-- One hexadecimal digit. -/
def hexDigit (n : Nat) : Char := (['0', '1', '2', '3', '4', '5', '6', '7', '8', '9', 'A', 'B', 'C', 'D', 'E', 'F'] : List Char).getD n '?'

/-- A byte as `0x..` (rule R11). -/
def hexByte (b : Byte) : String :=
  "0x" ++ String.ofList [hexDigit (b.toNat / 16), hexDigit (b.toNat % 16)]

/-- A byte list in brackets (rule R11). -/
def hexBytes (l : List Byte) : String := "[" ++ ", ".intercalate (l.map hexByte) ++ "]"

/-- The fraction digits of `n` over ten to the `k`, trailing zeros kept. -/
def fractionDigits : (k : Nat) → Nat → List Char
  | 0, _ => []
  | k + 1, n => fractionDigits k (n / 10) ++ [hexDigit (n % 10)]

/-- An exact rational: a terminating decimal of at most eight places as such, any other as a fraction. Rule R99 gives
examples only, such as `25.0625` and `750` (DESIGN CHOICE, log entry 33). -/
def decimal (t : ℚ) : String :=
  let sign := if t.num < 0 then "-" else ""
  let n := t.num.natAbs
  match (List.range 9).find? (fun k => 10 ^ k % t.den == 0) with
  | some 0 => sign ++ toString n
  | some k =>
    let scaled := n * (10 ^ k / t.den)
    sign ++ toString (scaled / 10 ^ k) ++ "." ++ String.ofList (fractionDigits k (scaled % 10 ^ k))
  | none => sign ++ toString n ++ "/" ++ toString t.den

/-- The drive value as the spec names it (rule R37). The reserved code, which no rule writes, has no name in the spec
(DESIGN CHOICE, log entry 33). -/
def Drive.name : Drive → String
  | .off => "off"
  | .heat => "heat"
  | .cool => "cool"
  | .reserved => "reserved"

/-- The number of an error code (rule R211). -/
def Err.number : Err → Nat
  | .noError => 0
  | .transportTimeout => 1
  | .bridgeNotPresent => 2
  | .noChannelPresence => 3
  | .romChecksumInvalid => 4
  | .measurementFailed => 5
  | .invariantViolation => 6
  | .checksumInputError => 7
  | .illegalOperation => 8

/-- One line of a trace (rule R99). -/
def Event.line : Event → String
  | .busWrite bytes ok => "BusWrite " ++ hexBytes bytes ++ (if ok then " ok" else " timeout")
  | .busRead (some b) => "BusRead -> " ++ hexByte b
  | .busRead none => "BusRead -> timeout"
  | .delay ms => "Delay " ++ decimal ms
  | .drive d => "drive <- " ++ d.name
  | .notify (.measurementComplete v) => "Notify MeasurementComplete " ++ decimal v
  | .notify (.fatalError e) => "Notify FatalError " ++ toString e.number

/-- The trace of a run. -/
def Block.trace (b : Block) : List String := b.history.map Event.line

end Sys2Proof.Machine
end

