-- ==== Sys2Proof/Tests/Slice0.lean ====
section
/-! SUPPORT. Tests: ill-formed operations are refused, words written out from the tables decode, the vectors of
95_test_vectors.md come out, and for every statement with hypotheses a state and operands that meet them. -/

namespace Sys2Proof.Machine.Tests

open Sys2Proof Sys2Proof.Machine

/- One theorem at a time: each `decide +kernel` waits for the kernel, and a hundred of them waiting side by side use up
the memory the check allows. -/
set_option Elab.async false

/-! ## Ill-formed operations (one for each check of WellFormed.lean) -/

theorem test_ill_formed_list : ¬ (Instr.checksum (some (List.replicate 256 0)) 0 1).WellFormed := by decide +kernel

theorem test_ill_formed_magnitude : ¬ (Instr.ctSethyst (-1 / 2)).WellFormed := by decide +kernel

/-- The band may be 0, the list empty, absent or of 255 bytes (rules R93, R182). -/
theorem test_well_formed_limits : (Instr.ctSethyst 0).WellFormed
    ∧ (Instr.checksum none 0 1).WellFormed ∧ (Instr.checksum (some []) 0 1).WellFormed
    ∧ (Instr.checksum (some (List.replicate 255 0)) 0 1).WellFormed := by decide +kernel

/-! ## Decoding, words written out from the tables -/

/-- Operand lines with every line set, each to a value of its own. -/
def lines : Operands := ⟨0xA, 0x13, 0x91, 0x01, 0b10, 1, 2, 3, some [0x01, 0x02], ⟨true, 5, 1⟩⟩

/-- Layer 3 (rule R92), each operation with its own operand lines (rule R93). -/
theorem test_decode_operations :
    decode (.op 0b00000001 lines) = .ok (.checksum (some [1, 2]) 2 3)
    ∧ decode (.op 0b00010000 lines) = .ok .brReset
    ∧ decode (.op 0b00010001 lines) = .ok (.brWritecfg 0xA)
    ∧ decode (.op 0b00010010 lines) = .ok .brResetch
    ∧ decode (.op 0b00010011 lines) = .ok (.brWritebyte 0x13)
    ∧ decode (.op 0b00010100 lines) = .ok .brReadbyte
    ∧ decode (.op 0b00010101 lines) = .ok .brReadbit
    ∧ decode (.op 0b00100000 lines) = .ok (.snInit 0b10)
    ∧ decode (.op 0b00100001 lines) = .ok .snMeasure
    ∧ decode (.op 0b00100010 lines) = .ok (.snDecode 0x91 0x01 0b10) := by decide +kernel

theorem test_decode_operations_upper :
    decode (.op 0b00110000 lines) = .ok (.flRecord (-5 / 2))
    ∧ decode (.op 0b00110001 lines) = .ok .flAverage
    ∧ decode (.op 0b00110010 lines) = .ok .flReset
    ∧ decode (.op 0b01000000 lines) = .ok (.ctEval (-5 / 2))
    ∧ decode (.op 0b01000001 lines) = .ok (.ctSettarget (-5 / 2))
    ∧ decode (.op 0b01000010 lines) = .ok (.ctSethyst (5 / 2))
    ∧ decode (.op 0b01000011 lines) = .ok (.ctSetunit .fahrenheit)
    ∧ decode (.op 0b01000100 lines) = .ok .ctModeNext
    ∧ decode (.op 0b01000101 lines) = .ok .ctModePrev
    ∧ decode (.op 0b01010000 lines) = .ok .orchTick
    ∧ decode (.op 0b01010001 lines) = .ok .orchStart := by decide +kernel

/-- Layer 1 (rules R70, R71). -/
theorem test_decode_commands :
    decode (.bus [0b11110000]) = .ok .bcDevreset
    ∧ decode (.bus [0b11100001, 0xE1]) = .ok (.bcSetptr 0xE1)
    ∧ decode (.bus [0b11010010, 0xB4]) = .ok (.bcWritecfg 0x4)
    ∧ decode (.bus [0b10110100]) = .ok .bcChreset
    ∧ decode (.bus [0b10000111, 0x80]) = .ok (.bcSinglebit 0x80)
    ∧ decode (.bus [0b10100101, 0xCC]) = .ok (.bcWritebyte 0xCC)
    ∧ decode (.bus [0b10010110]) = .ok .bcReadbyte
    ∧ decode (.bus [0b01111000]) = .ok .bcTriplet := by decide

/-- Layer 2 (rules R79, R80, R82). -/
theorem test_decode_channel :
    decode (.channel 0b11110000) = .ok .rcSearch ∧ decode (.channel 0b00110011) = .ok .rcRead
    ∧ decode (.channel 0b01010101) = .ok .rcMatch ∧ decode (.channel 0b11001100) = .ok .rcSkip
    ∧ decode (.channel 0b11101100) = .ok .rcAlarmsearch ∧ decode (.channel 0b01000100) = .ok .fcConvert
    ∧ decode (.channel 0b01001110) = .ok .fcWritesp ∧ decode (.channel 0b10111110) = .ok .fcReadsp
    ∧ decode (.channel 0b01001000) = .ok .fcCopysp ∧ decode (.channel 0b10111000) = .ok .fcRecall
    ∧ decode (.channel 0b10110100) = .ok .fcReadpower ∧ decode (.channel 0b00011111) = .ok .resbyte9
    ∧ decode (.channel 0b00111111) = .ok .resbyte10 ∧ decode (.channel 0b01011111) = .ok .resbyte11
    ∧ decode (.channel 0b01111111) = .ok .resbyte12 := by decide

/-- Words that are no instruction are rejected by name. -/
theorem test_decode_rejects :
    decode (.op 0x02 lines) = .error (.unknownOperation 0x02)
    ∧ decode (.op 0x01 { lines with bytes := some (List.replicate 256 0) }) = .error .listTooLong
    ∧ decode (.bus []) = .error .emptyBusWrite ∧ decode (.bus [0x00]) = .error (.unknownCommand 0x00)
    ∧ decode (.bus [0xA5]) = .error (.missingArgument 0xA5)
    ∧ decode (.bus [0x96, 0x00]) = .error (.tooManyBytes 0x96)
    ∧ decode (.bus [0xD2, 0x44]) = .error (.notNibbleDoubled 0x44)
    ∧ decode (.channel 0x00) = .error (.unknownChannelByte 0x00) := by decide +kernel

/-- The rows as the opcode table numbers their bits; 0x44, 0xF0 and 0xB4 stand in two layers (log entry 5), and a zero
byte is no configuration (rule R74). -/
theorem test_table_words :
    decodeTableWord 8 0x20 = some (.snInit 0) ∧ decodeTableWord 8 0x44 = some .ctModeNext
    ∧ decodeTableWord 8 0xF0 = some .bcDevreset ∧ decodeTableWord 8 0xB4 = some .bcChreset
    ∧ decodeTableWord 8 0xA5 = some (.bcWritebyte 0) ∧ decodeTableWord 8 0xCC = some .rcSkip
    ∧ decodeTableWord 16 0xB4D2 = some (.bcWritecfg 0x4) ∧ decodeTableWord 16 0x00D2 = none
    ∧ decodeTableWord 8 0x02 = none := by decide +kernel

/-! ## Helpers -/

/-- The reset machine with this outside world. -/
def world (l : List Stimulus) : State := { State.reset with outside := l }

def heard (b : Byte) : Stimulus := .answer (.reply b)

def silence : Stimulus := .answer .timeout

/-- The next state, if there is one. -/
def nextOf (o : Host.Outcome State Fault Refusal) : Option State :=
  match o with
  | .next t => some t
  | .fault _ => none
  | .refused _ => none

/-- What an instruction adds to an empty history, and what it hands back. -/
def seen (i : Instr) (s : State) : Option (List String × Option HostResult) :=
  (nextOf (exec i s)).map fun t => (t.block.trace, t.result)

def done (v : Option Value) : Option HostResult := some ⟨.noError, v⟩

def err (e : Err) : Option HostResult := some ⟨e, none⟩

/-! ## Checksum Engine (95_test_vectors.md 2.1) -/

/-- V-CRC-3, V-CRC-17: offset and length select the range. -/
theorem test_checksum :
    checksum Params.suggested (some [0x02, 0x1C, 0xB8, 0x01, 0x00, 0x00, 0x00]) 0 7 = .ok 0xA2
    ∧ checksum Params.suggested (some [0xAA, 0x02, 0x1C, 0xB8, 0x01, 0x00, 0x00, 0x00, 0x55]) 1 7 = .ok 0xA2
    ∧ checksum Params.suggested (some [0x31, 0x32, 0x33, 0x34, 0x35, 0x36, 0x37, 0x38, 0x39]) 0 9 = .ok 0xA1
    ∧ checksum Params.suggested (some [0x01, 0x02, 0x03]) 2 1 = .ok 0xE2 := by decide +kernel

/-- The engine reads the table and the start value it is given (rule R10): an all-zero table gives 0, and the start value
enters as the first index. -/
theorem test_checksum_parameters :
    checksum { Params.suggested with crcTable := Vector.replicate 256 0 } (some [0x02, 0x1C]) 0 2 = .ok 0x00
    ∧ checksum { Params.suggested with crcInit := 0x03 } (some [0x02]) 0 1 = .ok 0x5E := by decide +kernel

/-- V-CRC-19 to V-CRC-22: the error is handed back and nothing changes. -/
theorem test_checksum_errors :
    nextOf (exec (.checksum none 0 1) State.reset) = some { State.reset with result := err .checksumInputError }
    ∧ nextOf (exec (.checksum (some [1, 2, 3]) 2 2) State.reset) = some { State.reset with result := err .checksumInputError }
    ∧ nextOf (exec (.checksum (some [1]) 0 0) State.reset) = some { State.reset with result := err .checksumInputError } :=
  ⟨rfl, rfl, rfl⟩

/-! ## Bridge Protocol Driver (95_test_vectors.md 2.3) -/

/-- V-BR-2 and V-BR-3: bit 4 alone decides. -/
theorem test_br_reset :
    seen .brReset (world [heard 0, heard 0x11]) = some (["BusWrite [0xF0] ok", "BusRead -> 0x11"], done none)
    ∧ seen .brReset (world [heard 0, heard 0xEF])
      = some (["BusWrite [0xF0] ok", "BusRead -> 0xEF", "Notify FatalError 2"], err .bridgeNotPresent) := by
  decide +kernel

/-- V-BR-6 and V-BR-8. -/
theorem test_br_writecfg :
    (nextOf (exec (.brWritecfg 0x4) (world [heard 0]))).map (fun t => (t.block.trace, t.block.cfgShadow))
      = some (["BusWrite [0xD2, 0xB4] ok"], some 0x4)
    ∧ (nextOf (exec (.brWritecfg 0x4) (world [silence]))).map (fun t => (t.block.trace, t.block.cfgShadow))
      = some (["BusWrite [0xD2, 0xB4] timeout", "Notify FatalError 1"], none) := by decide +kernel

/-- V-BR-10 and V-BR-11: one read only, and bit 1 alone decides. -/
theorem test_br_resetch :
    seen .brResetch (world [heard 0, heard 0x0B]) = some (["BusWrite [0xB4] ok", "BusRead -> 0x0B"], done none)
    ∧ seen .brResetch (world [heard 0, heard 0xFD])
      = some (["BusWrite [0xB4] ok", "BusRead -> 0xFD", "Notify FatalError 3"], err .noChannelPresence) := by
  decide +kernel

/-- V-BR-13 and V-BR-14: the busy-poll, and its timeout. -/
theorem test_br_writebyte :
    seen (.brWritebyte 0xCC) (world [heard 0, heard 0x0B, heard 0x0B, heard 0x0A])
      = some (["BusWrite [0xA5, 0xCC] ok", "BusRead -> 0x0B", "BusRead -> 0x0B", "BusRead -> 0x0A"], done none)
    ∧ (nextOf (exec (.brWritebyte 0x44) (world [heard 0, heard 0x09, silence]))).map (fun t => (t.result, t.block.lastStatus))
      = some (err .transportTimeout, some 0x09) := by decide +kernel

/-- V-BR-18 and V-BR-19: the data byte is no status. -/
theorem test_br_readbyte :
    seen .brReadbyte (world [heard 0, heard 0x09, heard 0x08, heard 0, heard 0x91])
      = some (["BusWrite [0x96] ok", "BusRead -> 0x09", "BusRead -> 0x08", "BusWrite [0xE1, 0xE1] ok", "BusRead -> 0x91"],
          done (some (.byte 0x91)))
    ∧ (nextOf (exec .brReadbyte (world [heard 0, heard 0x08, heard 0, heard 0x01]))).map (fun t => (t.result, t.block.lastStatus))
      = some (done (some (.byte 0x01)), some 0x08) := by decide +kernel

/-- V-BR-22 and V-BR-23. -/
theorem test_br_readbit :
    seen .brReadbit (world [heard 0, heard 0x28])
      = some (["BusWrite [0x87, 0x80] ok", "BusRead -> 0x28"], done (some (.bit true)))
    ∧ seen .brReadbit (world [heard 0, heard 0xDF])
      = some (["BusWrite [0x87, 0x80] ok", "BusRead -> 0xDF"], done (some (.bit false))) := by decide +kernel

/-! ## Rows of layers 1 and 2 by themselves -/

/-- One bus write each (rules R70, R71). -/
theorem test_commands_alone :
    seen .bcDevreset (world [heard 0]) = some (["BusWrite [0xF0] ok"], done none)
    ∧ seen (.bcSetptr 0xE1) (world [heard 0]) = some (["BusWrite [0xE1, 0xE1] ok"], done none)
    ∧ seen (.bcWritecfg 0x4) (world [heard 0]) = some (["BusWrite [0xD2, 0xB4] ok"], done none)
    ∧ seen .bcChreset (world [heard 0]) = some (["BusWrite [0xB4] ok"], done none)
    ∧ seen (.bcSinglebit 0x80) (world [heard 0]) = some (["BusWrite [0x87, 0x80] ok"], done none)
    ∧ seen (.bcWritebyte 0x44) (world [heard 0]) = some (["BusWrite [0xA5, 0x44] ok"], done none)
    ∧ seen .bcReadbyte (world [heard 0]) = some (["BusWrite [0x96] ok"], done none) := by decide +kernel

/-- The read pointer goes to the data register only, and the timing byte is `BIT_TIMING` (rules R55, R76; log entry 8). -/
theorem test_fixed_argument :
    seen (.bcSetptr 0xE2) (world [heard 0]) = some ([], err .illegalOperation)
    ∧ seen (.bcSinglebit 0x00) (world [heard 0]) = some ([], err .illegalOperation) := by decide +kernel

/-- One byte on the channel each (rules R79, R80, R82, R116). -/
theorem test_channel_alone :
    seen .rcRead (world [heard 0, heard 8]) = some (["BusWrite [0xA5, 0x33] ok", "BusRead -> 0x08"], done none)
    ∧ seen .rcSkip (world [heard 0, heard 8]) = some (["BusWrite [0xA5, 0xCC] ok", "BusRead -> 0x08"], done none)
    ∧ seen .fcConvert (world [heard 0, heard 8]) = some (["BusWrite [0xA5, 0x44] ok", "BusRead -> 0x08"], done none)
    ∧ seen .fcWritesp (world [heard 0, heard 8]) = some (["BusWrite [0xA5, 0x4E] ok", "BusRead -> 0x08"], done none)
    ∧ seen .fcReadsp (world [heard 0, heard 8]) = some (["BusWrite [0xA5, 0xBE] ok", "BusRead -> 0x08"], done none)
    ∧ seen .fcCopysp (world [heard 0, heard 8]) = some (["BusWrite [0xA5, 0x48] ok", "BusRead -> 0x08"], done none)
    ∧ seen .fcReadpower (world [heard 0, heard 8]) = some (["BusWrite [0xA5, 0xB4] ok", "BusRead -> 0x08"], done none)
    := by decide +kernel

theorem test_resolution_bytes_alone :
    seen .resbyte9 (world [heard 0, heard 8]) = some (["BusWrite [0xA5, 0x1F] ok", "BusRead -> 0x08"], done none)
    ∧ seen .resbyte10 (world [heard 0, heard 8]) = some (["BusWrite [0xA5, 0x3F] ok", "BusRead -> 0x08"], done none)
    ∧ seen .resbyte11 (world [heard 0, heard 8]) = some (["BusWrite [0xA5, 0x5F] ok", "BusRead -> 0x08"], done none)
    ∧ seen .resbyte12 (world [heard 0, heard 8]) = some (["BusWrite [0xA5, 0x7F] ok", "BusRead -> 0x08"], done none) := by
  decide +kernel

/-! ## Sensor Protocol Driver (95_test_vectors.md 2.4 to 2.6, programs P1 and P2) -/

/-- A byte sent and a byte fetched with no busy status, as the programs have it. -/
def sent (b : Byte) : Exchange := .send b 0 [] 0x08

def fetched (d : Byte) : Exchange := .fetch 0 [] 0x08 0 d

def presence : Exchange := .channelReset 0 0x0A

def rom1 : Vector Byte 8 := #v[0x02, 0x1C, 0xB8, 0x01, 0x00, 0x00, 0x00, 0xA2]

def good9 : Vector Byte 9 := #v[0x91, 0x01, 0x4B, 0x46, 0x7F, 0xFF, 0x0C, 0x10, 0x70]

def bad9 : Vector Byte 9 := #v[0x90, 0x01, 0x4B, 0x46, 0x7F, 0xFF, 0x0C, 0x10, 0x70]

/-- What the world of a conversation is. -/
def answered (xs : List Exchange) : List Stimulus := (xs.flatMap Exchange.answers).map .answer

/-- The environment of P1 up to the ROM code. -/
def p1Rom (rom : Vector Byte 8) : List Exchange :=
  [.deviceReset 0 0x18, presence, sent 0x33] ++ rom.toList.map fetched

/-- The environment of P1. -/
def p1 : List Exchange := p1Rom rom1
  ++ [presence, sent 0xCC, sent 0xB4, .singleBit 0 0x08]
  ++ [presence, sent 0xCC, sent 0x4E, sent 0x00, sent 0x00, sent 0x7F]
  ++ [presence, sent 0xCC, .configure 0x4 0, sent 0x48, .wait 10 (.reply 0)]

/-- P1: 66 events, the last of them as listed, and the end state. -/
theorem test_sn_init : (nextOf (exec (.snInit 0b11) (world (answered p1)))).map
      (fun t => (t.block.history.length, t.block.trace.drop 56, t.result))
    = some (66, ["BusWrite [0xA5, 0x7F] ok", "BusRead -> 0x08", "BusWrite [0xB4] ok", "BusRead -> 0x0A",
        "BusWrite [0xA5, 0xCC] ok", "BusRead -> 0x08", "BusWrite [0xD2, 0xB4] ok", "BusWrite [0xA5, 0x48] ok",
        "BusRead -> 0x08", "Delay 10"], done none)
    ∧ (nextOf (exec (.snInit 0b11) (world (answered p1)))).map (fun t => { t.block with history := [] })
      = some { State.reset.block with
          rom := some rom1, parasitic := some true, resolution := some 0b11, initialized := true,
          lastStatus := some 0x08, cfgShadow := some 0x4 } := by decide +kernel

/-- V-INIT-5 and V-INIT-9: the ROM checksum, and the refusal while ticking. -/
theorem test_sn_init_errors :
    (nextOf (exec (.snInit 0b11) (world (answered (p1Rom (rom1.set 7 0xA3)))))).map
        (fun t => (t.block.history.length, t.block.rom, t.block.error, t.result))
      = some (39, none, .romChecksumInvalid, err .romChecksumInvalid)
    ∧ (nextOf (exec (.snInit 0b11) { State.reset with block := { State.reset.block with ticking := true } })).map
        (fun t => (t.block.history, t.result))
      = some ([], err .illegalOperation) := by decide +kernel

/-- The start state of P2, with this outside world. -/
def p2 (l : List Stimulus) : State := { State.reset with
  block := { State.reset.block with
    initialized := true, resolution := some 0b11, parasitic := some false, rom := some rom1, ticking := true
    mode := .hold, target := 24, hyst := 1 / 2, high := 49 / 2, low := 47 / 2 }
  outside := l }

/-- The trigger of P2, externally powered. -/
def trigger : List Exchange := [presence, sent 0xCC, sent 0x44, .wait 750 (.reply 0)]

/-- One scratchpad read. -/
def readSp (v : Vector Byte 9) : List Exchange := [presence, sent 0xCC, sent 0xBE] ++ v.toList.map fetched

/-- V-MEAS-1 and V-MEAS-4 (the retry is transparent). -/
theorem test_sn_measure :
    (nextOf (exec .snMeasure (p2 (answered (trigger ++ readSp good9))))).map
        (fun t => (t.block.history.length, t.block.sp, t.result))
      = some (49, some good9, done (some (.temp (401 / 16))))
    ∧ (nextOf (exec .snMeasure (p2 (answered (trigger ++ readSp bad9 ++ readSp good9))))).map
        (fun t => (t.block.history.length, t.block.sp, t.result))
      = some (91, some good9, done (some (.temp (401 / 16)))) := by decide +kernel

/-- V-DEC-6 at each resolution, and V-DEC-4. -/
theorem test_sn_decode :
    decodeTemp Params.suggested 0xF1 0xFF 0b00 = -1 / 2 ∧ decodeTemp Params.suggested 0xF1 0xFF 0b01 = -3 / 4
    ∧ decodeTemp Params.suggested 0xF1 0xFF 0b10 = -7 / 8 ∧ decodeTemp Params.suggested 0xF1 0xFF 0b11 = -15 / 16
    ∧ decodeTemp Params.suggested 0x00 0x80 0b11 = -2048 := by decide +kernel

/-- V-DEC-1 as an operation. -/
theorem test_sn_decode_runs :
    seen (.snDecode 0x91 0x01 0b11) State.reset = some ([], done (some (.temp (401 / 16)))) := by decide +kernel

/-! ## Averaging Filter (95_test_vectors.md 2.7) -/

/-- `FL_RECORD` of each, from the empty window. -/
def recorded (u : TempUnit) (l : List Temp) : Block :=
  l.foldl (fun b x => b.record Params.suggested x) { State.reset.block with unit := u }

/-- V-FL-3 and V-FL-8. -/
theorem test_fl_record :
    (let b := recorded .celsius ((List.range 20).map fun n => ((n + 1 : Nat) : Temp))
     b.win = (List.range 16).map (fun n => ((n + 5 : Nat) : Temp)) ∧ b.len = 16 ∧ b.sum = 200)
    ∧ (recorded .fahrenheit [401 / 16]).win = [6169 / 80] := by decide +kernel

/-- V-FL-2 and V-FL-7. -/
theorem test_fl_average :
    seen .flAverage { State.reset with block := recorded .celsius [401 / 16, 383 / 16, 22] }
      = some ([], done (some (.temp (71 / 3))))
    ∧ seen .flAverage State.reset = some ([], done none) := by decide +kernel

/-- V-FL-6. -/
theorem test_fl_reset :
    (nextOf (exec .flReset { State.reset with block := recorded .celsius [1, 2] })).map (·.block)
      = some State.reset.block := by decide +kernel

/-! ## Hysteresis Controller (95_test_vectors.md 2.8) -/

/-- One `CT_EVAL` at target 24, band 1/2. -/
def eval (m : Mode) (q : CtlState) (avg : Temp) : Option (CtlState × Option HostResult) :=
  (nextOf (exec (.ctEval avg) { State.reset with
    block := { State.reset.block with mode := m, state := q, target := 24, hyst := 1 / 2, high := 49 / 2, low := 47 / 2 } })).map
    fun t => (t.block.state, t.result)

/-- V-CT-2, V-CT-5, V-CT-6, V-CT-9, V-CT-17, V-CT-18, V-CT-19. -/
theorem test_ct_eval :
    eval .cool .idle (49 / 2) = some (.cooling, done none) ∧ eval .cool .cooling 24 = some (.idle, done none)
    ∧ eval .cool .heating (121 / 5) = some (.heating, done none) ∧ eval .heat .idle (47 / 2) = some (.heating, done none)
    ∧ eval .hold .cooling 23 = some (.idle, done none) ∧ eval .hold .heating 25 = some (.idle, done none)
    ∧ eval .hold .cooling (241 / 10) = some (.cooling, done none) := by decide +kernel

/-- V-CT-35. -/
theorem test_ct_eval_reserved : eval .hold .reserved 24 = some (.reserved, err .invariantViolation) := by decide +kernel

/-- The setpoint after an instruction. -/
def setpoint (i : Instr) (t h : Temp) : Option (Temp × Temp × Temp × Temp) :=
  (nextOf (exec i { State.reset with block := { State.reset.block with target := t, hyst := h } })).map
    fun s => (s.block.target, s.block.hyst, s.block.high, s.block.low)

/-- V-CT-23. -/
theorem test_ct_settarget : setpoint (.ctSettarget (-10)) 0 (1 / 2) = some (-10, 1 / 2, -19 / 2, -21 / 2) := by
  decide +kernel

/-- V-CT-21 and V-CT-22. -/
theorem test_ct_sethyst : setpoint (.ctSethyst 2) 68 1 = some (68, 2, 70, 66)
    ∧ setpoint (.ctSethyst 0) 68 1 = some (68, 0, 68, 68) := by decide +kernel

/-- V-CT-27 and V-CT-28. -/
theorem test_ct_setunit :
    (nextOf (exec (.ctSetunit .fahrenheit) { State.reset with block := recorded .celsius [25, 26] })).map
        (fun t => (t.block.unit, t.block.win, t.block.sum)) = some (.fahrenheit, [], 0)
    ∧ (nextOf (exec (.ctSetunit .celsius) { State.reset with block := recorded .celsius [25, 26] })).map
        (fun t => (t.block.unit, t.block.win, t.block.sum)) = some (.celsius, [25, 26], 51) := by decide +kernel

/-- V-CT-24: from hold, forward is off. -/
theorem test_ct_mode_next : (nextOf (exec .ctModeNext { State.reset with
    block := { State.reset.block with mode := .hold } })).map (·.block.mode) = some .off := by decide +kernel

/-- V-CT-25: from off, backward is hold. -/
theorem test_ct_mode_prev : (nextOf (exec .ctModePrev State.reset)).map (·.block.mode) = some .hold := by decide +kernel

/-! ## Polling Orchestrator (95_test_vectors.md 2.9, programs P2 and P3) -/

/-- P2: the end of the history, and the end state. -/
theorem test_orch_tick : (nextOf (exec .orchTick (p2 (answered (trigger ++ readSp good9))))).map
      (fun t => (t.block.history.length, t.block.trace.drop 49, t.result))
    = some (51, ["drive <- cool", "Notify MeasurementComplete 25.0625"], none)
    ∧ (nextOf (exec .orchTick (p2 (answered (trigger ++ readSp good9))))).map (fun t => { t.block with history := [] })
      = some { (p2 []).block with
          sp := some good9, lastStatus := some 0x08, lastReading := some (401 / 16), win := [401 / 16], len := 1
          sum := 401 / 16, state := .cooling, drive := .cool } := by decide +kernel

/-- The start state of P3. -/
def p3 (l : List Stimulus) : State := { p2 l with
  block := { (p2 []).block with
    mode := .cool, state := .cooling, drive := .cool, win := [26, 26], len := 2, sum := 52, lastReading := some 26 } }

/-- P3: no presence. -/
theorem test_orch_tick_no_presence : (nextOf (exec .orchTick (p3 [heard 0, heard 0x08]))).map
      (fun t => (t.block.trace, { t.block with history := [] }))
    = some (["BusWrite [0xB4] ok", "BusRead -> 0x08", "drive <- off", "Notify FatalError 3"],
        { (p3 []).block with lastStatus := some 0x08, drive := .off, ticking := false, error := .noChannelPresence }) := by
  decide +kernel

/-- V-OR-2 and V-OR-3. -/
theorem test_orch_start :
    (nextOf (exec .orchStart State.reset)).map (fun t => (t.block.ticking, t.result))
      = some (false, err .illegalOperation)
    ∧ (nextOf (exec .orchStart { p2 [] with block := { (p2 []).block with ticking := false, error := .noChannelPresence } })).map
        (fun t => (t.block, t.result)) = some ((p2 []).block, done none) := by decide +kernel

/-- V-OR-5 to V-OR-7: what the host may not issue, one step each. -/
theorem test_host_port_refuses : ∀ code ∈ [0x13#8, 0x00, 0x02, 0x16, 0x23, 0x33, 0x46, 0x52, 0x60, 0xFF, 0x40, 0x30, 0x32, 0x21, 0x50],
    (nextOf (step (world [.request (.host code lines)]))).map (fun t => (t.block, t.outside, t.result))
      = some (State.reset.block, [], err .illegalOperation) := by
  decide +kernel

/-- The port's word of P5, `CT_MODE_NEXT`, as the first instruction after reset. -/
theorem test_first_instruction : (nextOf (step (State.reset.withFetchWord 8 0x44))).map (·.block.mode) = some .cool := by
  decide +kernel

/-! ## The hypotheses of the statements can be met: one state and operands for each clause, at its limits -/

theorem test_meets_DecodeReadsBackEveryEncoding : (Instr.checksum (some (List.replicate 255 0)) 0 1).WellFormed
    ∧ (Instr.ctSethyst 0).WellFormed ∧ (Instr.bcWritecfg 0xF).WellFormed := by decide +kernel

theorem test_meets_EachWordHasOneMeaning : decode (.op 0x44 lines) = .ok .ctModeNext
    ∧ decode (.bus [0xA5, 0x44]) = .ok (.bcWritebyte 0x44) ∧ decode (.channel 0x44) = .ok .fcConvert := by decide

theorem test_meets_StepRunsTheDecodedInstruction :
    (world [.request (.invoke (.bus [0xB4]))]).Free ∧ decode (.bus [0xB4]) = .ok .bcChreset
    ∧ (world [.request (.host 0x44 lines)]).Free ∧ decode (.op 0x44 lines) = .ok .ctModeNext
    ∧ 0x44#8 ∈ [0x01#8, 0x20#8, 0x31#8, 0x41#8, 0x42#8, 0x43#8, 0x44#8, 0x45#8, 0x51#8] ∧ (p2 [.tick]).Free
    ∧ (p2 []).Free ∧ (p2 [heard 9]).Free
    ∧ (world [.request (.invoke (.channel 0x00))]).Free ∧ decode (.channel 0x00) = .error (.unknownChannelByte 0x00) := by
  decide +kernel

theorem test_meets_HostPortRefusesWhatTheHostMayNotDo :
    (world [.request (.host 0x02 lines)]).Free
    ∧ 0x02#8 ∉ [0x01#8, 0x20#8, 0x31#8, 0x41#8, 0x42#8, 0x43#8, 0x44#8, 0x45#8, 0x51#8]
    ∧ (p2 [.request (.host 0x20 lines)]).Free ∧ (p2 [.request (.host 0x20 lines)]).block.ticking = true
    ∧ (world [.request (.host 0x51 lines)]).block.initialized = false
    ∧ decode (.op 0x31 lines) = .ok .flAverage ∧ decode (.op 0x21 lines) = .ok .snMeasure := by decide +kernel

/-- A channel reset that waits for its status. -/
def waitingState (l : List Stimulus) : State := { world l with
  block := { State.reset.block with brPhase := .brPoll, history := [.busWrite [0xB4] true] }
  busy := some ⟨.brResetch, State.reset.block, [.reply 0]⟩ }

theorem test_waitingState : exec .brResetch (world [heard 0]) = .next (waitingState []) := rfl

theorem test_meets_BusyBlockLosesTicksAndHoldsRequests :
    (waitingState [.tick]).busy = some ⟨.brResetch, State.reset.block, [.reply 0]⟩
    ∧ (waitingState [.request (.host 0x44 lines)]).busy.isSome = true
    ∧ (waitingState [heard 9]).busy.isSome = true ∧ (waitingState []).busy.isSome = true
    ∧ (waitingState []).outside = [] := by decide +kernel

/-- A host operation the host may issue, one it may not, one that is none, and a word of the sequencer, each alone and
against a tick. -/
theorem test_meets_HeldRequestIsServedOnceFree :
    (∀ l ∈ [[], [.tick]], ∀ r ∈ [Request.host 0x44 lines, .host 0x21 lines, .host 0x02 lines, .invoke (.bus [0xB4])],
      (fun s : State => s.busy = none ∧ s.waiting = [r] ∧ s.outside = l) { world l with waiting := [r] })
    ∧ decode (.op 0x44 lines) = .ok .ctModeNext ∧ Instr.ctModeNext.hostMayIssue = true
    ∧ decode (.op 0x21 lines) = .ok .snMeasure ∧ Instr.snMeasure.hostMayIssue = false
    ∧ decode (.op 0x02 lines) = .error (.unknownOperation 0x02)
    ∧ decode (.bus [0xB4]) = .ok .bcChreset := by decide +kernel

theorem test_meets_OutputsAreNeverBothOn : (p3 []).block.drive ≠ .reserved
    ∧ { (p3 []).block with drive := .reserved }.drive = Drive.reserved := by decide +kernel

theorem test_meets_ResetPutsEveryFieldAtItsResetValue : (p3 [.reset]).outside = [.reset]
    ∧ (p3 [.reset]).block.drive = .cool ∧ (waitingState [.reset]).busy ≠ none := by decide +kernel

theorem test_meets_ResetStateIsSound :
    { Params.suggested with retryLimit := some 2, resetHyst := 0 }.Legal ∧ { Params.suggested with retryLimit := none }.Legal :=
  ⟨⟨fun n h => (by cases h; decide), by decide +kernel, by decide⟩, ⟨fun n h => (by cases h), by decide +kernel, by decide⟩⟩

/-- Bit 1 of a configuration is always 0 (rule R73). -/
theorem test_bit_one_is_illegal : ¬ { Params.suggested with cfgStrong := 0x6 }.Legal :=
  fun h => absurd (h.bit_one_clear 0x6 (by decide)) (by decide)

theorem test_sound_registers (l : List Stimulus) : (p2 l).block.Sound (p2 l).params where
  len_eq := rfl
  len_le := by show ([] : List Temp).length ≤ 16; decide
  sum_eq := rfl
  high_eq := by show (49 / 2 : ℚ) = 24 + 1 / 2; norm_num
  low_eq := by show (47 / 2 : ℚ) = 24 - 1 / 2; norm_num
  hyst_nonneg := by show (0 : ℚ) ≤ 1 / 2; norm_num
  state_legal := nofun
  drive_legal := nofun
  drive_no_error := fun h => absurd rfl h
  error_is_safe := fun h => absurd rfl h
  error_is_fatal := fun h => absurd rfl h
  ticking_initialized := fun _ => rfl
  initialized_values := fun _ => ⟨rom1, 0b11, false, rfl, rfl, rfl, by show recordValid Params.suggested rom1.toList 7 = true; decide +kernel⟩

/-- A tick in progress, its first answer heard. -/
def tickWaiting (l : List Stimulus) : State := { p2 l with
  block := { (p2 []).block with snPhase := .busReset, brPhase := .brPoll, history := [.busWrite [0xB4] true] }
  busy := some ⟨.orchTick, (p2 []).block, [.reply 0]⟩ }

theorem test_tickWaiting : exec .orchTick (p2 [heard 0]) = .next (tickWaiting []) := rfl

theorem test_sound_free : (p2 [.tick]).Sound where
  block_sound := test_sound_registers _
  reset_hyst_nonneg := by decide +kernel
  free_idle := fun _ => ⟨rfl, rfl⟩
  busy_faithful := fun _ h => (Option.some_ne_none _ h.symm).elim

theorem test_sound_waiting (l : List Stimulus) : (tickWaiting l).Sound where
  block_sound := { test_sound_registers [] with }
  reset_hyst_nonneg := (test_sound_free).reset_hyst_nonneg
  free_idle := nofun
  busy_faithful := fun p h => by
    obtain rfl : _ = p := Option.some.inj h
    exact ⟨test_sound_registers [], ⟨rfl, rfl⟩, test_tickWaiting⟩

/-- A free state and one with an operation in progress, each with its next state. -/
theorem test_meets_EveryStepKeepsSoundness : (p2 [.tick]).Sound ∧ (nextOf (step (p2 [.tick]))).isSome = true
    ∧ (tickWaiting [heard 0]).Sound ∧ (nextOf (step (tickWaiting [heard 0]))).isSome = true :=
  ⟨test_sound_free, by decide +kernel, test_sound_waiting _, by decide +kernel⟩

theorem test_meets_EveryStepOnlyExtendsTheHistory : (tickWaiting [.tick]).Sound
    ∧ step (tickWaiting [.tick]) = .next (tickWaiting []) := ⟨test_sound_waiting _, rfl⟩

theorem test_meets_ResumingEqualsRunningAtOnce : (world [heard 0]).busy = none
    ∧ (world [heard 0]).outside = [Answer.reply 0].map .answer ∧ exec .brResetch (world [heard 0]) = .next (waitingState [])
    ∧ (waitingState []).busy = some ⟨.brResetch, State.reset.block, [.reply 0]⟩ := ⟨rfl, rfl, rfl, rfl⟩

theorem test_meets_ChecksumSeesEveryOneByteChange : (0x91 : Byte) ≠ 0x90 ∧ Params.suggested.crcTable.toList.Nodup := by
  decide +kernel

theorem test_meets_BitSerialChecksumAgrees : Params.suggested.crcTable = maximTable := rfl

theorem test_meets_ValidRecordsChecksumToZero : Params.suggested.crcTable = maximTable ∧ Params.suggested.crcInit = 0x00
    ∧ 0 < 7 ∧ rom1.toList.length = 7 + 1 ∧ 0 < 8 ∧ good9.toList.length = 8 + 1 :=
  ⟨rfl, rfl, by decide, rfl, by decide, rfl⟩

theorem test_meets_ResetCommandsWhole :
    (∀ x ∈ [(Instr.brReset, 0xF0#8, 4, Err.bridgeNotPresent), (.brResetch, 0xB4#8, 1, .noChannelPresence)],
      (0xFF#8).getLsbD x.2.2.1 = true ∧ (0x12#8).getLsbD x.2.2.1 = true ∧ (0xED#8).getLsbD x.2.2.1 = false)
    ∧ (world [heard 0, heard 0x12]).outside = .answer (.reply 0) :: .answer (.reply 0x12) :: []
    ∧ (world [heard 0, heard 0xED]).outside = .answer (.reply 0) :: .answer (.reply 0xED) :: []
    ∧ (world [silence]).outside = .answer .timeout :: []
    ∧ (world [heard 0, silence]).outside = .answer (.reply 0) :: .answer .timeout :: [] := by decide +kernel

theorem test_meets_WriteConfigurationWhole : (0xB4 : Byte) = ((~~~(0x4 : Nibble)).setWidth 8 <<< 4) ||| (0x4 : Nibble).setWidth 8
    ∧ (world [heard 0]).outside = .answer (.reply 0) :: [] ∧ (world [silence]).outside = .answer .timeout :: [] := by
  decide +kernel

theorem test_meets_ReadBitWhole : [(0x87 : Byte), 0x80] = [0x87, (world []).params.bitTiming]
    ∧ (world [heard 0, heard 0xFF]).outside = .answer (.reply 0) :: .answer (.reply 0xFF) :: []
    ∧ (world [silence]).outside = .answer .timeout :: []
    ∧ (world [heard 0, silence]).outside = .answer (.reply 0) :: .answer .timeout :: [] := by decide +kernel

/-- The polls of V-BR-13, cut short in each way. -/
theorem test_meets_WriteByteWhole :
    (∀ x ∈ [0x0B#8, 0xFF#8], x.getLsbD 0 = true) ∧ (0xFE#8).getLsbD 0 = false
    ∧ (world [heard 0, heard 0x0B, heard 0xFF, heard 0xFE]).outside = (heardAll 0 [0x0B, 0xFF] [.reply 0xFE]).map .answer ++ []
    ∧ (world [heard 0, heard 0x0B, heard 0xFF, silence]).outside = (heardAll 0 [0x0B, 0xFF] [.timeout]).map .answer ++ []
    ∧ (world [heard 0, silence]).outside = (heardAll 0 [] [.timeout]).map .answer ++ []
    ∧ (world [silence]).outside = .answer .timeout :: [] := by decide +kernel

theorem test_meets_ReadByteWhole :
    (∀ x ∈ [0x09#8], x.getLsbD 0 = true) ∧ (0x08#8).getLsbD 0 = false ∧ [(0xE1 : Byte), 0xE1] = [0xE1, (world []).params.ptrData]
    ∧ (world [heard 0, heard 9, heard 8, heard 0, heard 1]).outside
      = (heardAll 0 [9] [.reply 8, .reply 0, .reply 1]).map .answer ++ []
    ∧ (world [heard 0, heard 8, silence]).outside = (heardAll 0 [] [.reply 8, .timeout]).map .answer ++ []
    ∧ (world [heard 0, heard 8, heard 0, silence]).outside
      = (heardAll 0 [] [.reply 8, .reply 0, .timeout]).map .answer ++ []
    ∧ (world [heard 0, heard 9, silence]).outside = (heardAll 0 [9] [.timeout]).map .answer ++ []
    ∧ (world [heard 0, silence]).outside = (heardAll 0 [] [.timeout]).map .answer ++ []
    ∧ (world [silence]).outside = .answer .timeout :: [] := by decide +kernel

theorem test_meets_BusyPollNeverEndsWhileBusy :
    (Instr.brReadbyte, [0x96#8]) ∈ [(Instr.brWritebyte 0xCC, [0xA5#8, 0xCC]), (.brReadbyte, [0x96])] ∧ (∀ x ∈ [0x09#8, 0xFF#8], x.getLsbD 0 = true)
    ∧ (world [heard 0, heard 9, heard 0xFF]).outside = (heardAll 0 [9, 0xFF] []).map .answer
    ∧ (world [heard 0]).outside = (heardAll 0 [] []).map .answer := by decide +kernel

theorem test_meets_BridgeCommandsAlone :
    (Instr.bcSetptr 0xE1, [0xE1#8, 0xE1]) ∈ [(Instr.bcDevreset, [0xF0#8]),
      (.bcSetptr (world []).params.ptrData, [0xE1, (world []).params.ptrData]), (.bcWritecfg 0x4, [0xD2, cfgByte 0x4]), (.bcChreset, [0xB4]),
      (.bcSinglebit (world []).params.bitTiming, [0x87, (world []).params.bitTiming]), (.bcWritebyte 0xB4, [0xA5, 0xB4]), (.bcReadbyte, [0x96])]
    ∧ (world [heard 0]).outside = .answer (.reply 0) :: [] ∧ (world [silence]).outside = .answer .timeout :: []
    ∧ (0xE2 : Byte) ≠ (world []).params.ptrData ∧ (0x00 : Byte) ≠ (world []).params.bitTiming := by
  decide +kernel

theorem test_meets_ChannelBytesAlone : (Instr.fcConvert, 0x44#8) ∈ [(Instr.rcRead, 0x33#8), (.rcSkip, 0xCC), (.fcConvert, 0x44)]
    ∧ (∃ t, exec (.brWritebyte 0x44) (world []) = .next t) ∧ (0x09#8).getLsbD 0 = true ∧ (0x08#8).getLsbD 0 = false
    ∧ (world [heard 0, heard 9, heard 8]).outside = (heardAll 0 [9] [.reply 8]).map .answer ++ [] :=
  ⟨by decide, ⟨_, rfl⟩, by decide, by decide, rfl⟩

/-- P1, and P1 with the power probe answering 1 and nothing to wait for (V-INIT-2). -/
theorem test_meets_SensorInitialisationSucceeds :
    (world (answered p1)).block.ticking = false ∧ Serves p1 (snInitCalls (world []).params 0b11 true)
    ∧ p1.filterMap Exchange.data = rom1.toList ∧ p1.filterMap Exchange.bit = [!true] ∧ recordValid (world []).params rom1.toList 7 = true
    ∧ (world (answered p1)).Hears p1 [] := by decide +kernel

/-- The conversation of V-INIT-2 and V-INIT-8 together. -/
def p1External : List Exchange := p1Rom rom1
  ++ [presence, sent 0xCC, sent 0xB4, .singleBit 0 0x28]
  ++ [presence, sent 0xCC, sent 0x4E, sent 0x00, sent 0x00, sent 0x1F] ++ [presence, sent 0xCC, sent 0x48]

theorem test_meets_SensorInitialisationSucceeds_external :
    Serves p1External (snInitCalls (world []).params 0b00 false) ∧ p1External.filterMap Exchange.data = rom1.toList
    ∧ p1External.filterMap Exchange.bit = [!false] ∧ (world (answered p1External)).Hears p1External [] := by decide +kernel

/-- V-INIT-5. -/
theorem test_meets_InvalidRomEndsInitialisation : Serves (p1Rom (rom1.set 7 0xA3)) (.deviceReset :: readRomCalls)
    ∧ (p1Rom (rom1.set 7 0xA3)).filterMap Exchange.data = (rom1.set 7 0xA3).toList
    ∧ recordValid (world []).params (rom1.set 7 0xA3).toList 7 = false
    ∧ (world (answered (p1Rom (rom1.set 7 0xA3)))).Hears (p1Rom (rom1.set 7 0xA3)) [] := by decide +kernel

/-- One that succeeds and one that fails. -/
theorem test_meets_SensorInitialisationCommitsAllOrNothing :
    (nextOf (exec (.snInit 0b11) (world (answered p1)))).map (·.busy) = some none
    ∧ (nextOf (exec (.snInit 0b11) (world [silence]))).map (·.busy) = some none := by decide +kernel

/-- Two bad scratchpads before the good one: one fewer than the limit 3. -/
theorem test_meets_MeasurementSucceeds : (p2 []).block.parasitic = some false ∧ (p2 []).block.resolution = some 0b11
    ∧ Serves trigger (triggerCalls (p2 []).params false 0b11)
    ∧ (∀ y ∈ [(readSp bad9, bad9), (readSp bad9, bad9)], Serves y.1 readScratchpadCalls
      ∧ y.1.filterMap Exchange.data = y.2.toList ∧ recordValid (p2 []).params y.2.toList 8 = false)
    ∧ (p2 []).params.retryLimit = some (2 + 1)
    ∧ Serves (readSp good9) readScratchpadCalls ∧ (readSp good9).filterMap Exchange.data = good9.toList
    ∧ recordValid (p2 []).params good9.toList 8 = true
    ∧ (p2 (answered (trigger ++ [(readSp bad9, bad9), (readSp bad9, bad9)].flatMap Prod.fst ++ readSp good9))).Hears
      (trigger ++ [(readSp bad9, bad9), (readSp bad9, bad9)].flatMap Prod.fst ++ readSp good9) [] := by decide +kernel

/-- The trigger of a parasitically powered sensor at 9 bits (V-MEAS-2, V-MEAS-3). -/
theorem test_meets_MeasurementSucceeds_parasitic :
    Serves [presence, sent 0xCC, .configure 0x4 0, sent 0x44, .wait (375 / 4) .timeout] (triggerCalls (p2 []).params true 0b00) := by
  decide +kernel

/-- The start of P6: the limit is 2. -/
def p6 (l : List Stimulus) : State := { p2 l with params := { Params.suggested with retryLimit := some 2 } }

theorem test_meets_MeasurementFailsAtTheRetryLimit : (p6 []).params.retryLimit = some [(readSp bad9, bad9), (readSp bad9, bad9)].length
    ∧ ([(readSp bad9, bad9), (readSp bad9, bad9)].map Prod.snd).getLast? = some bad9
    ∧ Serves trigger (triggerCalls (p6 []).params false 0b11) ∧ Serves (readSp bad9) readScratchpadCalls
    ∧ (p6 (answered (trigger ++ [(readSp bad9, bad9), (readSp bad9, bad9)].flatMap Prod.fst))).Hears
      (trigger ++ [(readSp bad9, bad9), (readSp bad9, bad9)].flatMap Prod.fst) [] := by decide +kernel

/-- P6 without a limit, and with the limit one above the invalid scratchpads, by itself and in a tick. -/
theorem test_meets_MeasurementFailsAtTheRetryLimit_inProgress :
    (∀ lim ∈ [none, some 2], ∀ n, lim = some n → [(readSp bad9, bad9)].length < n)
    ∧ (∀ lim ∈ [none, some 2], (fun s : State => s.Hears (trigger ++ readSp bad9) [] ∧ s.block.parasitic = some false
        ∧ s.block.resolution = some 0b11 ∧ s.block.ticking = true ∧ Serves trigger (triggerCalls s.params false 0b11))
      { p3 (answered (trigger ++ readSp bad9)) with params := { Params.suggested with retryLimit := lim } }) :=
  ⟨fun _ h _ e => by subst e; simp at h; subst h; decide, by decide +kernel⟩

theorem test_meets_MeasurementErrors :
    (nextOf (exec .snMeasure (p2 (answered (trigger ++ readSp good9))))).map (·.busy) = some none
    ∧ (nextOf (exec .snMeasure (p2 [silence]))).map (fun t => (t.busy, t.result)) = some (none, err .transportTimeout) := by
  decide +kernel

theorem test_meets_MeasurementWithoutValuesStops :
    (world (answered [presence, sent 0xCC])).block.parasitic = none
    ∧ Serves [presence, sent 0xCC] [.channelReset, .send 0xCC]
    ∧ (world (answered [presence, sent 0xCC])).Hears [presence, sent 0xCC] []
    ∧ (∀ x ∈ [(true, [presence, sent 0xCC, .configure 0x4 0, sent 0x44]), (false, [presence, sent 0xCC, sent 0x44])],
      Serves x.2 ([.channelReset, .send 0xCC] ++ strongPullupCalls (world []).params x.1 ++ [.send 0x44])
      ∧ (fun s : State => s.block.parasitic = some x.1 ∧ s.block.resolution = none ∧ s.Hears x.2 [])
        { world (answered x.2) with block := { State.reset.block with parasitic := some x.1 } }) := by decide +kernel

theorem test_meets_NoTickOrHostOperationStops : (p2 [.tick]).block.Sound (p2 [.tick]).params ∧ Instr.orchStart.hostMayIssue = true :=
  ⟨test_sound_registers _, rfl⟩

/-- The two sides of bit 15. -/
theorem test_meets_DecodeHandsBackTheTemperature :
    0x7FFF = (0x7F#8).toNat * 256 + (0xFF#8).toNat ∧ 0x7FFF < 0x8000
    ∧ 0x8000 = (0x80#8).toNat * 256 + (0x00#8).toNat ∧ 0x10000 - 0x8000 = 0x8000 := by decide

theorem test_meets_DecodeClosedForm : Params.suggested.rounding = none := rfl

/-- Fifteen and sixteen samples, in both units. -/
theorem test_meets_RecordWhole : (recorded .celsius (List.replicate 15 1)).win.length < 16
    ∧ (recorded .fahrenheit (List.replicate 16 0)).win = 32 :: List.replicate 15 32
    ∧ 16 ≤ (recorded .fahrenheit (List.replicate 16 0)).win.length
    ∧ (2 : Temp) = roundT Params.suggested 2 ∧ (212 : Temp) = roundT Params.suggested (100 * (9 / 5) + 32) := by decide +kernel

theorem test_meets_WindowHoldsTheLastSixteen : List.replicate 17 (1 : Temp) ≠ [] := by decide +kernel

/-- The rows in order, at low 23.5, target 24, high 24.5, each at the limit of its range. -/
theorem test_meets_EvaluationTransitionTable : let lo : Temp := 47 / 2; let tg : Temp := 24; let hi : Temp := 49 / 2
    CtlState.heating ≠ .reserved ∧ hi ≥ hi ∧ (tg < hi ∧ tg ≤ tg) ∧ (tg < 97 / 4 ∧ 97 / 4 < hi) ∧ lo ≤ lo ∧ (tg > lo ∧ tg ≥ tg)
    ∧ (lo < 95 / 4 ∧ 95 / 4 < tg) ∧ (lo < hi ∧ lo ≤ lo) ∧ (lo < tg ∧ tg < hi) ∧ hi > tg ∧ lo < tg := by
  dsimp only; decide +kernel

theorem test_meets_ReservedStateIsAnInvariantViolation :
    ({ State.reset with block := { State.reset.block with state := .reserved } } : State).block.state = .reserved := rfl

theorem test_meets_HoldPassesThroughIdle : nextState .hold .cooling 20 24 25 23 = .idle ∧ nextState .hold .heating 30 24 25 23 = .idle := by
  decide +kernel

theorem test_meets_SetpointMutators : (0 : Temp) ≤ 0 := by decide +kernel

theorem test_meets_ModeCycling : State.reset.block.mode = .off ∧ (p2 []).block.mode = .hold ∧ (p3 []).block.mode = .cool
    ∧ (Mode.hold, Mode.off) ∈ [(Mode.off, Mode.cool), (.cool, .heat), (.heat, .hold), (.hold, .off)] := by decide +kernel

theorem test_meets_HaltedTickDoesNothing : (world [.tick]).block.ticking = false := rfl

/-- P2. -/
theorem test_meets_TickSucceeds : (p2 []).block.ticking = true ∧ (p2 []).block.parasitic = some false
    ∧ (p2 []).block.resolution = some 0b11 ∧ (p2 []).block.state ≠ .reserved
    ∧ Serves trigger (triggerCalls (p2 []).params false 0b11) ∧ (p2 []).params.retryLimit = some (0 + 3)
    ∧ Serves (readSp good9) readScratchpadCalls ∧ (readSp good9).filterMap Exchange.data = good9.toList
    ∧ recordValid (p2 []).params good9.toList 8 = true ∧ (p2 (answered (trigger ++ readSp good9))).Hears (trigger ++ [] ++ readSp good9) [] := by
  decide +kernel

/-- One that succeeds and one that fails. -/
theorem test_meets_FailedTickLeavesTheControllerAlone : (p3 []).block.ticking = true ∧ (p3 []).block.state ≠ .reserved
    ∧ (nextOf (exec .orchTick (p3 (answered (trigger ++ readSp good9))))).map (·.busy) = some none
    ∧ (nextOf (exec .orchTick (p3 [silence]))).map (·.busy) = some none := by decide +kernel

theorem test_meets_NoPresenceTurnsBothActuatorsOff : (p3 [heard 0, heard 0xFD]).block.ticking = true
    ∧ (0xFD#8).getLsbD 1 = false ∧ (p3 [heard 0, heard 0xFD]).outside = .answer (.reply 0) :: .answer (.reply 0xFD) :: [] := by
  decide +kernel

theorem test_meets_OrchestratorStartWhole : (p2 []).block.initialized = true ∧ (world []).block.initialized = false := ⟨rfl, rfl⟩

/-- A tick that succeeds, a tick that fails and a tick that waits. -/
theorem test_meets_OnlyATickTurnsAnActuatorOn :
    (nextOf (exec .orchTick (p3 (answered (trigger ++ readSp good9))))).isSome = true
    ∧ (nextOf (exec .orchTick (p3 [silence]))).isSome = true ∧ (nextOf (exec .orchTick (p3 []))).isSome = true := by decide +kernel

theorem test_meets_OnlyInitialisationWritesTheSensorIdentity :
    (∀ res, Instr.orchTick ≠ .snInit res) ∧ ∃ t, exec .orchTick (p3 [silence]) = .next t := ⟨nofun, _, rfl⟩

theorem test_meets_OnlyListedBytesReachTheBus : (∃ t, exec .snMeasure (p2 [heard 0]) = .next t)
    ∧ (∃ t, exec .orchTick (p2 [heard 0]) = .next t) ∧ (∃ t, exec (.snInit 0b01) (world [heard 0]) = .next t)
    ∧ ∃ t, exec (.bcWritecfg 0x4) (world [heard 0]) = .next t :=
  ⟨⟨_, rfl⟩, ⟨_, rfl⟩, ⟨_, rfl⟩, ⟨_, rfl⟩⟩

theorem test_meets_WaitingOperationHasDecidedNothing : (p2 [heard 0]).busy = none
    ∧ exec .orchTick (p2 [heard 0]) = .next (tickWaiting []) ∧ (tickWaiting []).busy ≠ none :=
  ⟨rfl, test_tickWaiting, nofun⟩

theorem test_meets_HostReadsTheFieldsOfAFreeBlock : (world []).busy = none ∧ (waitingState []).busy ≠ none := ⟨rfl, nofun⟩

end Sys2Proof.Machine.Tests
end

section
/-! What each instruction can come to, said once for all rows of the opcode table: the registers an instruction that
has ended leaves, the ways one can halt, and the inversion of `exec` that later proofs cite. -/

namespace Sys2Proof.Machine

/-! ## The ends of an instruction -/

/-- The registers an instruction leaves that began at `b` and has ended without an error. -/
inductive Block.Done (p : Params) (b : Block) : Instr → Block → Prop where
  /-- It wrote the bus registers alone, or nothing, and left idle sequencers idle. -/
  | onward {i : Instr} {b' : Block} (ho : b.Onward b') (hi : b.Idle → b'.Idle) : Done p b i b'
  | recorded (x : Temp) : Done p b (.flRecord x) (b.record p x)
  | cleared : Done p b .flReset b.clearWindow
  | retargeted (x : Temp) : Done p b (.ctSettarget x) (b.setSetpoint x b.hyst)
  | rebanded (h : Temp) : Done p b (.ctSethyst h) (b.setSetpoint b.target h)
  | unitChanged (u : TempUnit) : Done p b (.ctSetunit u) (b.changeUnit u)
  | modeNext : Done p b .ctModeNext (b.setMode b.mode.next)
  | modePrev : Done p b .ctModePrev (b.setMode b.mode.prev)
  | restarted (h : b.initialized = true) : Done p b .orchStart b.restart
  | evaluated (x : Temp) (h : b.state ≠ .reserved) : Done p b (.ctEval x) (b.setState (b.evaluated x))
  | initialised {b₀ : Block} {rom : Vector Byte 8} {par : Bool} {res : ResCode} (ho : b.Onward b₀)
      (hi : b.Idle → b₀.Idle) (hv : recordValid p rom.toList 7 = true) :
      Done p b (.snInit res) (b₀.commitInit rom par res)
  | ticked {b₀ : Block} {v : Temp} (ht : b.ticking = true) (hs : b.state ≠ .reserved) (ho : b.Onward b₀)
      (hi : b.Idle → b₀.Idle) : Done p b .orchTick (b₀.ticked p v)

/-- How an operation that began at `b` can halt: it raises a fatal error with only the bus registers written, or, in
a tick, the invariant violation with the sample recorded (rule R217); it waits; or it stops for want of a value. -/
inductive Block.Halted (p : Params) (b : Block) : Instr → Halt → Block → Prop where
  | raised {i : Instr} {e : Err} {b' : Block} (hf : e.fatal = true) (ho : b.Onward b') (hi : b'.Idle) :
      Halted p b i (.raised e) b'
  | violated {b₀ : Block} {v : Temp} (hs : b.state = .reserved) (ho : b.Onward b₀) :
      Halted p b .orchTick (.raised .invariantViolation) ((b₀.setLastReading v).record p v).idlePhases
  | waiting {i : Instr} {b' : Block} (ho : b.Onward b') : Halted p b i .waiting b'
  | stopped {i : Instr} {f : Fault} {b' : Block} (hi : i = .snMeasure ∨ i = .orchTick ∧ b.ticking = true)
      (hv : b.parasitic = none ∨ b.resolution = none) : Halted p b i (.stopped f) b'

/-- What `exec` makes of `i` in state `s`: it computes new registers at once, performs an operation (the same one in
every state with these registers and parameters), lets a tick pass while ticking is halted, or is refused. -/
inductive Arm (i : Instr) (s : State) : Prop where
  | computes {b : Block} {r : Option HostResult} (hd : Block.Done s.params s.block i b)
      (he : exec i s = .next { s with block := b, busy := none, result := r }) : Arm i s
  | performs (reports : Bool) {op : Op (Option Value)} (hw : i.WellFormed)
      (he : ∀ u : State, u.params = s.params → u.block = s.block → exec i u = perform i reports op u)
      (ho : op.Ends s.block (fun _ => Block.Done s.params s.block i) (Block.Halted s.params s.block i)) : Arm i s
  | skips (hi : i = .orchTick) (he : exec i s = .next s) : Arm i s
  | refuses {r : Refusal} (hi : i.hostMayIssue = false) (ht : i ≠ .orchTick) (he : exec i s = .refused r) : Arm i s

section
variable {i : Instr} {s : State}

/-- Handing back a result is an arm that computes nothing. -/
theorem Arm.unchanged {r : Option HostResult}
    (he : exec i s = .next { s with block := s.block, busy := none, result := r }) : Arm i s :=
  .computes (.onward (.refl _) id) he

theorem Arm.turnAway (e : Err) (he : exec i s = turnAway e s) : Arm i s := .unchanged he

theorem Op.Within.noResult {op : Op Unit} {sn : Prop} {errs : List Err} (h : op.Within sn errs) :
    (noResult op).Within sn errs :=
  h.bind fun _ => Op.within_pure _ _ _

/-- Halting with only the bus registers written, from what the laws of an operation say of each halt. -/
theorem Block.Halted.of_onward {p : Params} {b b' : Block} {h : Halt} {errs : List Err}
    (hf : ∀ e ∈ errs, e.fatal = true) (ho : b.Onward b') (hr : ∀ e, h = .raised e → e ∈ errs ∧ b'.Idle)
    (hst : ∀ f, h = .stopped f → (i = .snMeasure ∨ i = .orchTick ∧ b.ticking = true)
      ∧ (b.parasitic = none ∨ b.resolution = none)) : Block.Halted p b i h b' := by
  cases h with
  | raised e => exact .raised (hf e (hr e rfl).1) ho (hr e rfl).2
  | waiting => exact .waiting ho
  | stopped f => exact .stopped (hst f rfl).1 (hst f rfl).2

/-- An operation that touches only the bus registers ends in one of the ways named above. -/
theorem Op.Within.ends {op : Op (Option Value)} {errs : List Err} (h : op.Within True errs)
    (hf : ∀ e ∈ errs, e.fatal = true) (p : Params) (b : Block) :
    op.Ends b (fun _ => Block.Done p b i) (Block.Halted p b i) := by
  refine (h b).imp ?_ ?_
  · rintro _ b' ⟨ho, hbr, hsn⟩
    exact .onward ho fun hb => ⟨(hsn trivial).trans hb.1, hbr hb.2⟩
  · rintro h b' ⟨ho, hr, hst⟩
    exact .of_onward hf ho hr fun f h => absurd trivial (hst f h).1

/-- The arm of a bus operation. -/
theorem Arm.within {op : Op (Option Value)} {errs : List Err} (hw : i.WellFormed)
    (he : ∀ u : State, u.params = s.params → exec i u = perform i true op u) (h : op.Within True errs)
    (hf : ∀ e ∈ errs, e.fatal = true) : Arm i s :=
  .performs true hw (fun u hp _ => he u hp) (h.ends hf _ _)

/-- The arm of a channel byte by itself. -/
theorem Arm.sendAlone {d : Byte} (hw : i.WellFormed) (he : ∀ u, exec i u = sendAlone i d u) : Arm i s :=
  .within hw (fun u _ => he u) (within_brWritebyte d).noResult (by decide)

/-- The arm of a bridge command by itself. -/
theorem Arm.commandAlone {ph : BrPhase} {bytes : List Byte} (hw : i.WellFormed)
    (he : ∀ u, exec i u = perform i true (Machine.noResult (Machine.commandAlone ph bytes)) u) : Arm i s :=
  .within hw (fun u _ => he u) (within_commandAlone ph bytes).noResult (by decide)

/-- The arm of a bridge command that has one argument only. -/
theorem Arm.fixedArgument {ph : BrPhase} {cmd arg : Byte} (only : Params → Byte) (hw : i.WellFormed)
    (he : ∀ u : State, exec i u = Machine.fixedArgument i ph cmd (only u.params) arg u) : Arm i s := by
  by_cases h : arg = only s.params
  · exact .within hw (fun u hp => (he u).trans (if_pos (hp ▸ h))) (within_commandAlone ph [cmd, arg]).noResult
      (by decide)
  · exact .turnAway _ ((he s).trans (if_neg h))

end

/-! ### The operations that write more than the bus registers -/

theorem within_setCfgShadow (bits : Nibble) (sn : Prop) (errs : List Err) :
    (update (·.setCfgShadow bits)).Within sn errs :=
  fun b => ends_update ⟨b.onward_setCfgShadow bits, id, fun _ => rfl⟩

theorem ends_execSnInit (p : Params) (res : ResCode) (b : Block) : (noResult (snInit p res)).Ends b
    (fun _ => Block.Done p b (.snInit res)) (Block.Halted p b (.snInit res)) := by
  refine (ends_noResult (ends_snInit p res b)).imp ?_ ?_
  · rintro _ _ ⟨-, b₀, rom, par, ho, hbr, hsn, hv, rfl⟩
    exact .initialised ho (fun hb => ⟨hsn.trans hb.1, hbr hb.2⟩) hv
  · rintro h b' ⟨ho, hr, hst⟩
    exact .of_onward (by decide) ho hr fun f h => absurd h (hst f)

theorem ends_execSnMeasure (p : Params) (b : Block) :
    Op.Ends (do let v ← snMeasure p; pure (some (Value.temp v))) b
      (fun _ => Block.Done p b .snMeasure) (Block.Halted p b .snMeasure) := by
  refine Op.ends_bind ((ends_snMeasure p b).imp ?_ ?_)
  · rintro v b' ⟨ho, hbr, hsn⟩
    exact Op.ends_pure (.onward ho fun hb => ⟨hsn, hbr hb.2⟩)
  · rintro h b' ⟨ho, hr, hst⟩
    exact .of_onward (by decide) ho hr fun f h => ⟨.inl rfl, hst f h⟩

theorem ends_execCtEval (p : Params) (x : Temp) (b : Block) : (noResult (ctEval x)).Ends b
    (fun _ => Block.Done p b (.ctEval x)) (Block.Halted p b (.ctEval x)) := by
  have h : (ctEval x).Ends b (fun _ => Block.Done p b (.ctEval x)) (Block.Halted p b (.ctEval x)) := by
    refine Op.ends_bind (ends_look (Op.ends_bind (ends_require (fun hs => ends_update ?_) fun _ => ?_)))
    · exact .evaluated x (of_decide_eq_true hs)
    · exact .raised rfl b.onward_idlePhases ⟨rfl, rfl⟩
  exact (ends_noResult h).imp (fun _ _ h => h.2) fun _ _ => id

theorem ends_execOrchTick (p : Params) {b : Block} (ht : b.ticking = true) : (noResult (tickBody p)).Ends b
    (fun _ => Block.Done p b .orchTick) (Block.Halted p b .orchTick) := by
  refine (ends_noResult (ends_tickBody p b)).imp ?_ ?_
  · rintro _ _ ⟨-, hs, b₀, v, ho, hbr, hsn, rfl⟩
    exact .ticked ht hs ho fun hb => ⟨hsn, hbr hb.2⟩
  · rintro h b' (⟨ho, hr, hst⟩ | ⟨hs, rfl, b₀, v, ho, rfl⟩)
    · exact .of_onward (by decide) ho hr fun f h => ⟨.inr ⟨rfl, ht⟩, hst f h⟩
    · exact .violated hs ho

/-! ### The arms -/

theorem arm_checksum (bytes : Option (List Byte)) (offset length : Byte) (s : State) :
    Arm (.checksum bytes offset length) s := by
  cases h : checksum s.params bytes offset.toNat length.toNat with
  | ok c =>
    have he : exec (.checksum bytes offset length) s = complete s.block (some (.byte c)) s := by
      simp only [exec, execChecksum, h]
    exact .unchanged he
  | error e => exact .turnAway e (by simp only [exec, execChecksum, h])

theorem arm_snInit (res : ResCode) (s : State) : Arm (.snInit res) s := by
  cases ht : s.block.ticking with
  | true => exact .turnAway .illegalOperation (if_pos ht)
  | false =>
    refine .performs true rfl (fun u hp hb => ?_) (ends_execSnInit s.params res s.block)
    simp only [exec, execSnInit, hp, hb, ht, Bool.false_eq_true, if_false]

theorem arm_orchTick (s : State) : Arm .orchTick s := by
  cases ht : s.block.ticking with
  | true =>
    refine .performs false rfl (fun u hp hb => ?_) (ends_execOrchTick s.params ht)
    simp only [exec, execOrchTick, hp, hb, ht, if_true]
  | false => exact .skips rfl (if_neg (by simp [ht]))

theorem arm_orchStart (s : State) : Arm .orchStart s := by
  cases hi : s.block.initialized with
  | true => exact .computes (.restarted hi) (if_pos hi)
  | false => exact .turnAway .illegalOperation (if_neg (by simp [hi]))

/-- Every row of the opcode table has its arm. -/
theorem exec_arm (i : Instr) (s : State) : Arm i s := by
  cases i with
  -- layer 3
  | checksum bytes offset length => exact arm_checksum bytes offset length s
  | brReset => exact .within rfl (fun _ _ => rfl) within_brReset.noResult (by decide)
  | brWritecfg bits => exact .within rfl (fun _ _ => rfl) (within_brWritecfg bits).noResult (by decide)
  | brResetch => exact .within rfl (fun _ _ => rfl) within_brResetch.noResult (by decide)
  | brWritebyte d => exact .within rfl (fun _ _ => rfl) (within_brWritebyte d).noResult (by decide)
  | brReadbyte =>
    exact .within rfl (fun u hp => by rw [← hp]; rfl) ((within_brReadbyte s.params).bind fun _ => Op.within_pure _ _ _)
      (by decide)
  | brReadbit =>
    exact .within rfl (fun u hp => by rw [← hp]; rfl) ((within_brReadbit s.params).bind fun _ => Op.within_pure _ _ _)
      (by decide)
  | snInit res => exact arm_snInit res s
  | snMeasure => exact .performs true rfl (fun u hp _ => by rw [← hp]; rfl) (ends_execSnMeasure s.params s.block)
  | snDecode lsb msb res => exact .unchanged rfl
  | flRecord x => exact .computes (.recorded x) rfl
  | flAverage => exact .unchanged rfl
  | flReset => exact .computes .cleared rfl
  | ctEval x => exact .performs true rfl (fun _ _ _ => rfl) (ends_execCtEval s.params x s.block)
  | ctSettarget x => exact .computes (.retargeted x) rfl
  | ctSethyst h => exact .computes (.rebanded h) rfl
  | ctSetunit u => exact .computes (.unitChanged u) rfl
  | ctModeNext => exact .computes .modeNext rfl
  | ctModePrev => exact .computes .modePrev rfl
  | orchTick => exact arm_orchTick s
  | orchStart => exact arm_orchStart s
  -- layer 1
  | bcDevreset => exact .commandAlone rfl fun _ => rfl
  | bcSetptr arg => exact .fixedArgument Params.ptrData rfl fun _ => rfl
  | bcWritecfg bits =>
    exact .within rfl (fun _ _ => rfl)
      ((within_commandAlone _ _).bind fun _ => within_setCfgShadow bits _ _).noResult (by decide)
  | bcChreset => exact .commandAlone rfl fun _ => rfl
  | bcSinglebit arg => exact .fixedArgument Params.bitTiming rfl fun _ => rfl
  | bcWritebyte arg => exact .commandAlone rfl fun _ => rfl
  | bcReadbyte => exact .commandAlone rfl fun _ => rfl
  | bcTriplet => exact .refuses rfl nofun rfl
  -- layer 2
  | rcSearch => exact .refuses rfl nofun rfl
  | rcRead => exact .sendAlone rfl fun _ => rfl
  | rcMatch => exact .refuses rfl nofun rfl
  | rcSkip => exact .sendAlone rfl fun _ => rfl
  | rcAlarmsearch => exact .refuses rfl nofun rfl
  | fcConvert => exact .sendAlone rfl fun _ => rfl
  | fcWritesp => exact .sendAlone rfl fun _ => rfl
  | fcReadsp => exact .sendAlone rfl fun _ => rfl
  | fcCopysp => exact .sendAlone rfl fun _ => rfl
  | fcRecall => exact .refuses rfl nofun rfl
  | fcReadpower => exact .sendAlone rfl fun _ => rfl
  | resbyte9 => exact .sendAlone rfl fun _ => rfl
  | resbyte10 => exact .sendAlone rfl fun _ => rfl
  | resbyte11 => exact .sendAlone rfl fun _ => rfl
  | resbyte12 => exact .sendAlone rfl fun _ => rfl

/-! ### The inversion of `exec` -/

/-- Instruction `i`, begun at registers `b` under the parameters `p`, has used up the answers `heard` and waits at
registers `b'`, in whatever state it is run. -/
def WaitsAt (i : Instr) (p : Params) (b : Block) (heard : List Answer) (b' : Block) : Prop :=
  ∀ s : State, s.params = p → s.block = b → (takeAnswers s.outside).1 = heard →
    exec i s = .next { s with block := b', busy := some ⟨i, b, heard⟩, outside := (takeAnswers s.outside).2 }

/-- All an instruction can come to where the machine goes on: it has ended; it has raised into the safe state; it
waits, recorded as it is; or it was a tick that halted ticking let pass. -/
theorem exec_next {i : Instr} {s t : State} (h : exec i s = .next t) :
    (∃ b later r, Block.Done s.params s.block i b
      ∧ t = { s with block := b, busy := none, outside := later, result := r })
    ∨ (∃ e b later r, Block.Halted s.params s.block i (.raised e) b
      ∧ t = { s with block := b.safeState e, busy := none, outside := later, result := r })
    ∨ (∃ b, s.block.Onward b ∧ i.WellFormed ∧ WaitsAt i s.params s.block (takeAnswers s.outside).1 b
      ∧ t = { s with block := b, busy := some ⟨i, s.block, (takeAnswers s.outside).1⟩,
                     outside := (takeAnswers s.outside).2 })
    ∨ (i = .orchTick ∧ t = s) := by
  cases exec_arm i s with
  | computes hd he => cases he.symm.trans h; exact .inl ⟨_, _, _, hd, rfl⟩
  | skips hi he => cases he.symm.trans h; exact .inr (.inr (.inr ⟨hi, rfl⟩))
  | refuses _ _ he => cases he.symm.trans h
  | @performs reports op hw he ho =>
    have hx := ho (takeAnswers s.outside).1
    rw [he s rfl rfl] at h
    rcases @perform_cases i reports op s with ⟨v, c, hc, hp⟩ | ⟨e, c, hc, hp⟩ | ⟨c, hc, hp⟩ | ⟨f, c, hc, hp⟩ <;>
      rw [hc] at hx <;> cases hp.symm.trans h
    · exact .inl ⟨_, _, _, hx, rfl⟩
    · exact .inr (.inl ⟨e, _, _, _, hx, rfl⟩)
    · cases hx with
      | waiting hon =>
        refine .inr (.inr (.inl ⟨_, hon, hw, fun u hp hb ha => ?_, rfl⟩))
        rw [he u hp hb]
        unfold perform
        simp only [ha, hb, hc]

/-- Only a measurement, by itself or in a tick, can stop the machine with a fault, and only for want of a value. -/
theorem exec_fault {i : Instr} {s : State} {f : Fault} (h : exec i s = .fault f) :
    (i = .snMeasure ∨ i = .orchTick ∧ s.block.ticking = true)
    ∧ (s.block.parasitic = none ∨ s.block.resolution = none) := by
  cases exec_arm i s with
  | computes _ he => cases he.symm.trans h
  | skips _ he => cases he.symm.trans h
  | refuses _ _ he => cases he.symm.trans h
  | performs _ _ he ho =>
    obtain ⟨b, hb⟩ := perform_fault ho ((he s rfl rfl).symm.trans h)
    cases hb with
    | stopped hi hv => exact ⟨hi, hv⟩

/-- Neither the tick nor an operation of the host is refused by the model. -/
theorem exec_refused {i : Instr} {s : State} {r : Refusal} (h : exec i s = .refused r) :
    i.hostMayIssue = false ∧ i ≠ .orchTick := by
  cases exec_arm i s with
  | computes _ he => cases he.symm.trans h
  | skips _ he => cases he.symm.trans h
  | refuses hi ht _ => exact ⟨hi, ht⟩
  | performs _ _ he _ => exact absurd ((he s rfl rfl).symm.trans h) (perform_not_refused r)

end Sys2Proof.Machine
end

section
/-! The decoder hands the block well-formed instructions only (rules R56, R93, R182). -/

namespace Sys2Proof

variable {i : Instr}

theorem TempLine.magnitude_nonneg (l : TempLine) : 0 ≤ l.magnitude :=
  Rat.mkRat_nonneg (Int.natCast_nonneg _) _

theorem decodeOp_wellFormed {code : Byte} {args : Operands} (h : decodeOp code args = .ok i) : i.WellFormed := by
  unfold decodeOp at h
  split at h
  case h_1 =>
    split at h
    · cases h; rfl
    · split at h
      case isTrue hl => cases h; exact decide_eq_true hl
      case isFalse => cases h
  case h_16 => cases h; exact decide_eq_true args.temp.magnitude_nonneg
  case h_22 => cases h
  all_goals cases h; rfl

theorem decodeBusOne_wellFormed {cmd : Byte} (h : decodeBusOne cmd = .ok i) : i.WellFormed := by
  unfold decodeBusOne at h
  split at h <;> cases h <;> rfl

theorem decodeBusTwo_wellFormed {cmd arg : Byte} (h : decodeBusTwo cmd arg = .ok i) : i.WellFormed := by
  unfold decodeBusTwo at h
  split at h
  case h_2 => split at h <;> cases h; rfl
  all_goals cases h <;> rfl

theorem decodeChannel_wellFormed {b : Byte} (h : decodeChannel b = .ok i) : i.WellFormed := by
  unfold decodeChannel at h
  split at h <;> cases h <;> rfl

/-- What a word decodes to is well formed. -/
theorem decode_wellFormed {w : Word} (h : decode w = .ok i) : i.WellFormed := by
  cases w with
  | op code args => exact decodeOp_wellFormed h
  | channel b => exact decodeChannel_wellFormed h
  | bus bytes =>
    match bytes, h with
    | [cmd], h => exact decodeBusOne_wellFormed h
    | [cmd, arg], h => exact decodeBusTwo_wellFormed h

end Sys2Proof
end

section
/-! What every instruction keeps of the registers: the invariants of rule R43, the idle sequencers of rule R21, and
the sensor's identity (rules R26, R28, R29, R30). -/

namespace Sys2Proof.Machine

variable {p : Params} {b b' : Block}

/-! ### Soundness, by register update -/

theorem Block.Sound.onward (hs : b.Sound p) (h : b.Onward b') : b'.Sound p := by
  rw [h.others]
  exact { hs with }

theorem Block.Sound.idlePhases (hs : b.Sound p) : b.idlePhases.Sound p := { hs with }

theorem Block.Sound.setLastReading (hs : b.Sound p) (v : Temp) : (b.setLastReading v).Sound p := { hs with }

theorem Block.Sound.emit (hs : b.Sound p) (e : Event) : (b.emit e).Sound p := { hs with }

theorem Block.Sound.setMode (hs : b.Sound p) (m : Mode) : (b.setMode m).Sound p := { hs with }

theorem Block.Sound.setUnit (hs : b.Sound p) (u : TempUnit) : (b.setUnit u).Sound p := { hs with }

theorem Block.Sound.setState (hs : b.Sound p) {q : CtlState} (hq : q ≠ .reserved) : (b.setState q).Sound p :=
  { hs with state_legal := hq }

theorem Block.Sound.setWindow (hs : b.Sound p) {win : List Temp} {sum : Temp} (hl : win.length ≤ 16)
    (hsum : sum = win.sum) : (b.setWindow win sum).Sound p :=
  { hs with len_eq := rfl, len_le := hl, sum_eq := hsum }

theorem Block.Sound.clearWindow (hs : b.Sound p) : b.clearWindow.Sound p := hs.setWindow (by simp) (by simp)

theorem Block.Sound.changeUnit (hs : b.Sound p) (u : TempUnit) : (b.changeUnit u).Sound p := by
  unfold Block.changeUnit
  split
  · exact hs
  · exact (hs.setUnit u).clearWindow

/-- Recording keeps the sum exact: below the capacity the sample is added, at the capacity the oldest is taken off. -/
theorem Block.Sound.record (hs : b.Sound p) (x : Temp) : (b.record p x).Sound p := by
  have hlen := hs.len_le
  rw [Block.record_eq]
  dsimp only
  split
  case isTrue h => exact hs.setWindow (by simp; omega) (by simp [hs.sum_eq])
  case isFalse h =>
    cases hw : b.win with
    | nil => simp [hw] at h
    | cons oldest rest =>
      refine hs.setWindow ?_ ?_
      · simpa [hw] using hlen
      · simp only [hs.sum_eq, hw, List.sum_cons, List.headD_cons, List.drop_succ_cons, List.drop_zero, List.sum_append,
          List.sum_nil]
        ring

theorem Block.Sound.setSetpoint (hs : b.Sound p) (x : Temp) {h : Temp} (hh : 0 ≤ h) : (b.setSetpoint x h).Sound p :=
  { hs with high_eq := rfl, low_eq := rfl, hyst_nonneg := hh }

theorem Block.Sound.commitInit (hs : b.Sound p) {rom : Vector Byte 8} (par : Bool) (res : ResCode)
    (hv : recordValid p rom.toList 7 = true) : (b.commitInit rom par res).Sound p :=
  { hs with ticking_initialized := fun _ => rfl, initialized_values := fun _ => ⟨rom, res, par, rfl, rfl, rfl, hv⟩ }

theorem Block.Sound.restart (hs : b.Sound p) (hi : b.initialized = true) : b.restart.Sound p :=
  { hs with
    drive_no_error := fun _ => rfl
    error_is_safe := fun h => absurd rfl h
    error_is_fatal := fun h => absurd rfl h
    ticking_initialized := fun _ => hi }

/-- While ticking there is no error (rule R43 e), so the outputs may follow a legal state. -/
theorem Block.Sound.no_error (hs : b.Sound p) (ht : b.ticking = true) : b.error = .noError := by
  by_contra h
  exact absurd (ht.symm.trans (hs.error_is_safe h).1) (by decide)

theorem Block.Sound.applyDrive (hs : b.Sound p) (ht : b.ticking = true) : b.applyDrive.Sound p :=
  { hs with
    drive_legal := driveOf_legal b.state
    drive_no_error := fun _ => hs.no_error ht
    error_is_safe := fun h => absurd (hs.no_error ht) h }

/-- The safe state of sound registers is sound, for a fatal error (rule R222). -/
theorem Block.Sound.safeState (hs : b.Sound p) {e : Err} (he : e.fatal = true) : (b.safeState e).Sound p :=
  { hs with
    drive_legal := nofun
    drive_no_error := fun h => absurd rfl h
    error_is_safe := fun _ => ⟨rfl, rfl⟩
    error_is_fatal := fun _ => he
    ticking_initialized := nofun }

theorem Block.Sound.evaluated (hs : b.Sound p) (x : Temp) : (b.setState (b.evaluated x)).Sound p :=
  hs.setState (nextState_legal hs.state_legal)

@[simp] theorem Block.record_ticking (p : Params) (b : Block) (x : Temp) : (b.record p x).ticking = b.ticking := by
  obtain ⟨win, sum, _, h⟩ := b.record_setWindow p x
  rw [h]; rfl

theorem Block.Onward.ticking (h : b.Onward b') : b'.ticking = b.ticking := by rw [h.others]; rfl

theorem Block.Sound.ticked (hs : b.Sound p) (ht : b.ticking = true) (v : Temp) : (b.ticked p v).Sound p :=
  ((((hs.setLastReading v).record v).evaluated _).applyDrive (by simpa using ht)).emit _

theorem reset_sound (hr : 0 ≤ p.resetHyst) (history : List Event) : (Block.reset p history).Sound p where
  len_eq := rfl
  len_le := Nat.zero_le _
  sum_eq := rfl
  high_eq := rfl
  low_eq := rfl
  hyst_nonneg := hr
  state_legal := nofun
  drive_legal := nofun
  drive_no_error := fun _ => rfl
  error_is_safe := fun h => absurd rfl h
  error_is_fatal := fun h => absurd rfl h
  ticking_initialized := nofun
  initialized_values := nofun

/-! ### Soundness and idle sequencers, by how an instruction ends -/

theorem Block.record_idle (hi : b.Idle) (p : Params) (x : Temp) : (b.record p x).Idle := by
  obtain ⟨win, sum, _, h⟩ := b.record_setWindow p x
  rw [h]; exact hi

theorem Block.changeUnit_idle (hi : b.Idle) (u : TempUnit) : (b.changeUnit u).Idle := by
  unfold Block.changeUnit
  split <;> exact hi

variable {i : Instr}

/-- The operand of `CT_SETHYST` is a magnitude (rule R182). -/
theorem hyst_nonneg_of_wellFormed {h : Temp} (hw : (Instr.ctSethyst h).WellFormed) : 0 ≤ h := of_decide_eq_true hw

/-- An instruction that has ended keeps the registers sound. -/
theorem Block.Done.sound (hd : Block.Done p b i b') (hw : i.WellFormed) (hs : b.Sound p) : b'.Sound p := by
  cases hd with
  | onward ho _ => exact hs.onward ho
  | recorded x => exact hs.record x
  | cleared => exact hs.clearWindow
  | retargeted x => exact hs.setSetpoint x hs.hyst_nonneg
  | rebanded h => exact hs.setSetpoint _ (hyst_nonneg_of_wellFormed hw)
  | unitChanged u => exact hs.changeUnit u
  | modeNext => exact hs.setMode _
  | modePrev => exact hs.setMode _
  | restarted hi => exact hs.restart hi
  | evaluated x _ => exact hs.evaluated x
  | initialised ho _ hv => exact (hs.onward ho).commitInit _ _ hv
  | ticked ht _ ho _ => exact (hs.onward ho).ticked (ho.ticking.trans ht) _

/-- An instruction that has ended leaves the sequencers idle (rules R119, R148). -/
theorem Block.Done.idle (hd : Block.Done p b i b') (hb : b.Idle) : b'.Idle := by
  cases hd with
  | onward _ hi => exact hi hb
  | recorded x => exact Block.record_idle hb p x
  | unitChanged u => exact Block.changeUnit_idle hb u
  | initialised _ hi _ => exact hi hb
  | @ticked b₀ v _ _ _ hi =>
    have hidle : (b₀.setLastReading v).Idle := hi hb
    exact Block.record_idle hidle p v
  | cleared => exact hb
  | retargeted => exact hb
  | rebanded => exact hb
  | modeNext => exact hb
  | modePrev => exact hb
  | restarted => exact hb
  | evaluated => exact hb

/-- The safe state that a raised error leads to is sound, its sequencers idle. -/
theorem Block.Halted.safeState_sound {e : Err} (hh : Block.Halted p b i (.raised e) b') (hs : b.Sound p) :
    (b'.safeState e).Sound p ∧ (b'.safeState e).Idle := by
  cases hh with
  | raised hf ho hi => exact ⟨(hs.onward ho).safeState hf, hi⟩
  | violated hr _ => exact absurd hr hs.state_legal

/-! ### The sensor's identity -/

/-- `b'` has the ROM code, the resolution, the power mode and the initialised flag of `b`. -/
abbrev Block.SameIdentity (b b' : Block) : Prop :=
  b'.rom = b.rom ∧ b'.resolution = b.resolution ∧ b'.parasitic = b.parasitic ∧ b'.initialized = b.initialized

theorem Block.Onward.sameIdentity (h : b.Onward b') : b.SameIdentity b' := by
  rw [h.others]
  exact ⟨rfl, rfl, rfl, rfl⟩

theorem Block.record_sameIdentity (p : Params) (b : Block) (x : Temp) : b.SameIdentity (b.record p x) := by
  obtain ⟨win, sum, _, h⟩ := b.record_setWindow p x
  rw [h]
  exact ⟨rfl, rfl, rfl, rfl⟩

theorem Block.changeUnit_sameIdentity (b : Block) (u : TempUnit) : b.SameIdentity (b.changeUnit u) := by
  unfold Block.changeUnit
  split <;> exact ⟨rfl, rfl, rfl, rfl⟩

theorem Block.SameIdentity.trans {c : Block} (h : b.SameIdentity b') (h' : b'.SameIdentity c) : b.SameIdentity c := by
  obtain ⟨hrom, hres, hpar, hini⟩ := h
  obtain ⟨hrom', hres', hpar', hini'⟩ := h'
  exact ⟨hrom'.trans hrom, hres'.trans hres, hpar'.trans hpar, hini'.trans hini⟩

/-- The measurement of a tick and the sample recorded leave the identity alone. -/
theorem Block.Onward.sampled_sameIdentity (h : b.Onward b') (p : Params) (v : Temp) :
    b.SameIdentity ((b'.setLastReading v).record p v) :=
  h.sameIdentity.trans (Block.record_sameIdentity p (b'.setLastReading v) v)

theorem Block.Done.sameIdentity (hd : Block.Done p b i b') (hi : ∀ res, i ≠ .snInit res) : b.SameIdentity b' := by
  cases hd with
  | onward ho _ => exact ho.sameIdentity
  | recorded x => exact Block.record_sameIdentity p b x
  | unitChanged u => exact Block.changeUnit_sameIdentity b u
  | initialised => exact absurd rfl (hi _)
  | ticked _ _ ho _ => exact ho.sampled_sameIdentity p _
  | cleared => exact ⟨rfl, rfl, rfl, rfl⟩
  | retargeted => exact ⟨rfl, rfl, rfl, rfl⟩
  | rebanded => exact ⟨rfl, rfl, rfl, rfl⟩
  | modeNext => exact ⟨rfl, rfl, rfl, rfl⟩
  | modePrev => exact ⟨rfl, rfl, rfl, rfl⟩
  | restarted => exact ⟨rfl, rfl, rfl, rfl⟩
  | evaluated => exact ⟨rfl, rfl, rfl, rfl⟩

theorem Block.Halted.sameIdentity {e : Err} (hh : Block.Halted p b i (.raised e) b') :
    b.SameIdentity (b'.safeState e) := by
  cases hh with
  | raised _ ho _ => exact ho.sameIdentity
  | violated _ ho => exact ho.sampled_sameIdentity p _

end Sys2Proof.Machine
end

section
/-! The statements about a sound machine: every step keeps it sound, and no tick and no host operation stops it. -/

namespace Sys2Proof.Machine

variable {i : Instr} {s t : State}

/-! ### The record of an operation in progress -/

/-- An instruction begun on a free block that leaves it busy waits, and is well formed. -/
theorem exec_busy {p : InProgress} (h : exec i s = .next t) (hf : s.busy = none) (hb : t.busy = some p) :
    i.WellFormed ∧ WaitsAt i s.params s.block (takeAnswers s.outside).1 t.block := by
  rcases exec_next h with ⟨_, _, _, _, rfl⟩ | ⟨_, _, _, _, _, rfl⟩ | ⟨b, _, hw, ha, rfl⟩ | ⟨_, rfl⟩
  · cases hb
  · cases hb
  · exact ⟨hw, ha⟩
  · cases hf.symm.trans hb

/-- What the record of an operation in progress says, in any state with these registers: the operation is well
formed and waits at them. -/
theorem InProgress.Faithful.waitsAt {p : InProgress} (hp : p.Faithful s) (hb : s.busy = some p) :
    p.instr.WellFormed ∧ WaitsAt p.instr s.params p.start p.heard s.block := by
  obtain ⟨hw, ha⟩ := exec_busy hp.replay rfl hb
  rw [takeAnswers_answers] at ha
  exact ⟨hw, ha⟩

/-- An operation that waits at the registers of `s` is recorded faithfully in `s`. -/
theorem WaitsAt.faithful {b : Block} {heard : List Answer} (ha : WaitsAt i s.params b heard s.block)
    (hb : s.busy = some ⟨i, b, heard⟩) (hs : b.Sound s.params) (hi : b.Idle) :
    InProgress.Faithful ⟨i, b, heard⟩ s where
  start_sound := hs
  start_idle := hi
  replay := by
    have h := ha { s with block := b, busy := none, outside := heard.map .answer } rfl rfl (by rw [takeAnswers_answers])
    rw [takeAnswers_answers, ← hb] at h
    exact h

/-- A block that is free is sound when its registers are, its sequencers idle. -/
theorem State.Sound.of_free (hs : s.block.Sound s.params) (hr : 0 ≤ s.params.resetHyst) (hi : s.block.Idle)
    (hf : s.busy = none) : s.Sound :=
  ⟨hs, hr, fun _ => hi, fun _ h => nomatch hf.symm.trans h⟩

/-- The soundness of a machine does not depend on what arrives, what is held, the free values drawn or the last
result. -/
theorem State.Sound.congr (hs : s.Sound) (hb : t.block = s.block) (hp : t.params = s.params) (hy : t.busy = s.busy) :
    t.Sound where
  block_sound := by rw [hb, hp]; exact hs.block_sound
  reset_hyst_nonneg := by rw [hp]; exact hs.reset_hyst_nonneg
  free_idle h := by rw [hb]; exact hs.free_idle (hy.symm.trans h)
  busy_faithful p h := by
    have hsb := hy.symm.trans h
    have hf := hs.busy_faithful p hsb
    have hw := (hf.waitsAt hsb).2
    rw [← hb, ← hp] at hw
    exact hw.faithful h (hp ▸ hf.start_sound) hf.start_idle

/-! ### Every step keeps it -/

/-- Every instruction keeps a free machine sound. -/
theorem exec_sound (h : exec i s = .next t) (hs : s.Sound) (hf : s.busy = none) (hw : i.WellFormed) : t.Sound := by
  have hi := hs.free_idle hf
  rcases exec_next h with ⟨b, _, _, hd, rfl⟩ | ⟨e, b, _, _, hh, rfl⟩ | ⟨b, ho, _, ha, rfl⟩ | ⟨_, rfl⟩
  · exact .of_free (hd.sound hw hs.block_sound) hs.reset_hyst_nonneg (hd.idle hi) rfl
  · obtain ⟨hsafe, hidle⟩ := hh.safeState_sound hs.block_sound
    exact .of_free hsafe hs.reset_hyst_nonneg hidle rfl
  · refine ⟨hs.block_sound.onward ho, hs.reset_hyst_nonneg, nofun, fun p hp => ?_⟩
    cases hp
    exact WaitsAt.faithful ha rfl hs.block_sound hi
  · exact hs

/-- The machine is sound after a reset, whatever it was doing (rules R44, R240, R241). -/
theorem hardReset_sound (hr : 0 ≤ s.params.resetHyst) : s.hardReset.Sound :=
  .of_free (reset_sound hr _) hr ⟨rfl, rfl⟩ rfl

theorem turnAway_sound {e : Err} (h : turnAway e s = .next t) (hs : s.Sound) (hf : s.busy = none) : t.Sound := by
  cases h
  exact hs.congr rfl rfl hf.symm

/-- Serving a request keeps a free machine sound. -/
theorem serve_sound {r : Request} (h : serve r s = .next t) (hs : s.Sound) (hf : s.busy = none) : t.Sound := by
  unfold serve at h
  split at h
  · split at h
    · exact turnAway_sound h hs hf
    case h_2 hd =>
      split at h
      · exact exec_sound h hs hf (decode_wellFormed hd)
      · exact turnAway_sound h hs hf
  · split at h
    · cases h
    case h_2 hd => exact exec_sound h hs hf (decode_wellFormed hd)

/-- Going on with an operation in progress keeps the machine sound: it is run from the sound registers it began at. -/
theorem resume_sound {p : InProgress} {outside : List Stimulus} (h : resume p outside s = .next t)
    (hs : s.Sound) (hb : s.busy = some p) : t.Sound := by
  have hp := hs.busy_faithful p hb
  exact exec_sound h (.of_free hp.start_sound hs.reset_hyst_nonneg hp.start_idle rfl) rfl (hp.waitsAt hb).1

theorem stepBusy_sound {p : InProgress} (hs : s.Sound) (hb : s.busy = some p) (h : stepBusy p s = .next t) :
    t.Sound := by
  unfold stepBusy at h
  split at h
  · exact resume_sound h (hs.congr rfl rfl rfl) hb
  · exact resume_sound h hs hb
  · cases h; exact hs.congr rfl rfl rfl
  · cases h; exact hs.congr rfl rfl rfl
  · cases h; exact hardReset_sound hs.reset_hyst_nonneg

/-- An accepted tick is the instruction `ORCH_TICK` (rule R230). -/
theorem tick_sound (h : execOrchTick s = .next t) (hs : s.Sound) (hf : s.busy = none) : t.Sound :=
  have h : exec .orchTick s = .next t := h
  exec_sound h hs hf rfl

theorem stepHeld_sound {r : Request} {held : List Request} (hs : s.Sound) (hf : s.busy = none)
    (h : stepHeld r held s = .next t) : t.Sound := by
  unfold stepHeld at h
  split at h
  · cases h; exact hardReset_sound hs.reset_hyst_nonneg
  · split at h
    · exact tick_sound h (hs.congr rfl rfl rfl) hf
    · exact serve_sound h (hs.congr rfl rfl rfl) hf
  · exact serve_sound h (hs.congr rfl rfl rfl) hf

theorem stepFree_sound (hs : s.Sound) (hf : s.busy = none) (h : stepFree s = .next t) : t.Sound := by
  unfold stepFree at h
  split at h
  · cases h; exact hs
  · cases h; exact hs.congr rfl rfl rfl
  · exact tick_sound h (hs.congr rfl rfl rfl) hf
  · exact serve_sound h (hs.congr rfl rfl rfl) hf
  · cases h; exact hardReset_sound hs.reset_hyst_nonneg

/-- Settles O12: a step resumes an operation, serves a request, runs a tick or resets, and each keeps the machine
sound. -/
theorem everyStepKeepsSoundness : Obligations.EveryStepKeepsSoundness := by
  intro s t hs h
  unfold step advance at h
  split at h
  case h_1 hb => exact stepBusy_sound hs hb h
  case h_2 hf _ => exact stepHeld_sound hs hf h
  case h_3 hf _ => exact stepFree_sound hs hf h

/-! ### No stop, and the identity -/

/-- A sound machine that ticks has the values a measurement reads (rule R43 f, g). -/
theorem Block.Sound.values_of_ticking {p : Params} {b : Block} (hs : b.Sound p) (ht : b.ticking = true) :
    ¬ (b.parasitic = none ∨ b.resolution = none) := by
  obtain ⟨rom, res, par, _, hres, hpar, _⟩ := hs.initialized_values (hs.ticking_initialized ht)
  simp [hres, hpar]

/-- Settles O37: only a measurement can fault, and a tick's measurement finds its values. -/
theorem noTickOrHostOperationStops : Obligations.NoTickOrHostOperationStops := by
  intro s i hs hi
  cases h : exec i s with
  | next t => exact ⟨t, rfl⟩
  | fault f =>
    obtain ⟨rfl | ⟨rfl, ht⟩, hv⟩ := exec_fault h
    · exact absurd hi (by decide)
    · exact absurd hv (hs.values_of_ticking ht)
  | refused r =>
    obtain ⟨hm, hn⟩ := exec_refused h
    exact absurd hi (by simp [hm, hn])

/-- Settles O57, by how an instruction can end: only `SN_INIT` commits. -/
theorem onlyInitialisationWritesTheSensorIdentity : Obligations.OnlyInitialisationWritesTheSensorIdentity := by
  intro i s t hi h
  rcases exec_next h with ⟨b, _, _, hd, rfl⟩ | ⟨e, b, _, _, hh, rfl⟩ | ⟨b, ho, _, _, rfl⟩ | ⟨_, rfl⟩
  · exact hd.sameIdentity hi
  · exact hh.sameIdentity
  · exact ho.sameIdentity
  · exact ⟨rfl, rfl, rfl, rfl⟩

/-! ### Reset, the outputs, and what the host reads -/

/-- A reset is taken at once, whether the block is busy, has requests held or is free (rules R240, R241). -/
theorem step_reset {later : List Stimulus} (h : s.outside = .reset :: later) :
    step s = .next { s with outside := later }.hardReset := by
  cases hb : s.busy with
  | some p => simp only [step, advance, hb, stepBusy, h]
  | none =>
    cases hw : s.waiting with
    | nil => simp only [step, advance, hb, hw, stepFree, h]
    | cons r held => simp only [step, advance, hb, hw, stepHeld, h]

/-- One write of `drive` adds at most its change to the history (rule R69). -/
theorem Block.putDrive_history_append (b : Block) (d : Drive) :
    (b.putDrive d).history = b.history ++ if b.drive = d then [] else [.drive d] := by
  rw [Block.putDrive_history]
  split
  · rw [List.append_nil]
  · rfl

/-- Settles O10: the step is the hard reset, whose registers are those of rule R44. -/
theorem resetPutsEveryFieldAtItsResetValue : Obligations.ResetPutsEveryFieldAtItsResetValue := by
  intro s later h
  refine ⟨_, step_reset h, rfl, rfl, rfl, rfl, rfl, ?_⟩
  rw [← Block.putDrive_history_append]
  rfl

/-- Settles O11: the reset registers are sound where the reset band is not negative. -/
theorem resetStateIsSound : Obligations.ResetStateIsSound :=
  have sound {p : Params} (hr : 0 ≤ p.resetHyst) : (State.resetWith p).Sound :=
    .of_free (reset_sound hr []) hr ⟨rfl, rfl⟩ rfl
  ⟨fun _ hp => sound hp.hyst_nonneg, sound le_rfl⟩

theorem Block.heatOut_iff (b : Block) : b.heatOut = true ↔ b.drive = .heat := beq_iff_eq

theorem Block.coolOut_iff (b : Block) : b.coolOut = true ↔ b.drive = .cool := beq_iff_eq

/-- Both outputs are decoded from the one register `drive` (rule R41). -/
theorem Block.outputsExclusive (b : Block) : b.OutputsExclusive := by
  rintro ⟨hh, hc⟩
  exact absurd ((b.heatOut_iff.mp hh).symm.trans (b.coolOut_iff.mp hc)) (by decide)

/-- For the legal codes the outputs are the bits of `DRIVE` (rule R88). -/
theorem Block.outputs_eq_bits {b : Block} (h : b.drive ≠ .reserved) :
    b.heatOut = b.drive.code.getLsbD 0 ∧ b.coolOut = b.drive.code.getLsbD 1 := by
  unfold Block.heatOut Block.coolOut
  cases hd : b.drive with
  | off => decide
  | heat => decide
  | cool => decide
  | reserved => exact absurd hd h

/-- Settles O13: each output is a comparison with one code of `drive`; the codes are read off their tables. -/
theorem outputsAreNeverBothOn : Obligations.OutputsAreNeverBothOn := by
  refine ⟨fun b => ⟨b.outputsExclusive, b.heatOut_iff, b.coolOut_iff, fun h => ?_, Block.outputs_eq_bits⟩,
    ⟨rfl, rfl, rfl⟩, ⟨rfl, rfl, rfl, rfl⟩, ⟨rfl, rfl, rfl, rfl⟩⟩
  unfold Block.heatOut Block.coolOut
  rw [h]
  decide

/-- Settles O60: a read is served exactly when no operation is in progress, and shows the registers as they stand. -/
theorem hostReadsTheFieldsOfAFreeBlock : Obligations.HostReadsTheFieldsOfAFreeBlock := by
  intro s
  unfold State.hostRead
  cases s.busy with
  | none => exact ⟨fun h => absurd rfl h, fun _ => rfl⟩
  | some p => exact ⟨fun _ => rfl, nofun⟩

end Sys2Proof.Machine
end

section
/-! How the event history grows (rules R64, R69, R219): what each instruction adds to it, run at once or resumed, and
what a step of the machine can come to. -/

namespace Sys2Proof.Machine

variable {i : Instr} {s t u : State} {p : InProgress}

/-! ### The history, by instruction -/

/-- What `exec` makes of `i` in state `s`, as far as the history is concerned: it computes new registers at once and
records nothing, performs an operation that goes on where it stood when more answers come (the same one in every
state with these registers and parameters), lets a tick pass, or is refused. -/
inductive HistoryArm (i : Instr) (s : State) : Prop where
  | computes {b : Block} {r : Option HostResult} (hh : b.history = s.block.history)
      (he : exec i s = .next { s with block := b, busy := none, result := r }) : HistoryArm i s
  | performs {reports : Bool} {op : Op (Option Value)} (k : op.Continues)
      (he : ∀ u : State, u.params = s.params → u.block = s.block → exec i u = perform i reports op u) : HistoryArm i s
  | skips (he : exec i s = .next s) : HistoryArm i s
  | refuses {r : Refusal} (he : exec i s = .refused r) : HistoryArm i s

theorem HistoryArm.turnAway (e : Err) (he : exec i s = turnAway e s) : HistoryArm i s := .computes rfl he

/-- The arm of a channel byte by itself. -/
theorem HistoryArm.sendAlone {d : Byte} (he : ∀ u, exec i u = sendAlone i d u) : HistoryArm i s :=
  .performs (continues_noResult (continues_brWritebyte d)) fun u _ _ => he u

/-- The arm of a bridge command by itself. -/
theorem HistoryArm.commandAlone {ph : BrPhase} {bytes : List Byte}
    (he : ∀ u, exec i u = perform i true (noResult (Machine.commandAlone ph bytes)) u) : HistoryArm i s :=
  .performs (continues_noResult (continues_commandAlone ph bytes)) fun u _ _ => he u

/-- The arm of a bridge command that has one argument only. -/
theorem HistoryArm.fixedArgument {ph : BrPhase} {cmd arg : Byte} (only : Params → Byte)
    (he : ∀ u : State, exec i u = Machine.fixedArgument i ph cmd (only u.params) arg u) : HistoryArm i s := by
  by_cases h : arg = only s.params
  · exact .performs (continues_noResult (continues_commandAlone ph [cmd, arg]))
      fun u hp _ => (he u).trans (if_pos (hp ▸ h))
  · exact .turnAway _ ((he s).trans (if_neg h))

theorem continues_bcWritecfg (bits : Nibble) : Op.Continues (do
    commandAlone .brCommand [Wire.writeConfiguration, cfgByte bits]
    update (·.setCfgShadow bits)) :=
  (continues_commandAlone _ _).bind fun _ => continues_update fun _ => List.prefix_rfl

theorem Block.history_changeUnit (b : Block) (u : TempUnit) : (b.changeUnit u).history = b.history := by
  unfold Block.changeUnit
  split <;> rfl

theorem historyArm_checksum (bytes : Option (List Byte)) (offset length : Byte) (s : State) :
    HistoryArm (.checksum bytes offset length) s := by
  cases h : checksum s.params bytes offset.toNat length.toNat with
  | ok c =>
    have he : exec (.checksum bytes offset length) s = complete s.block (some (.byte c)) s := by
      simp only [exec, execChecksum, h]
    exact .computes rfl he
  | error e => exact .turnAway e (by simp only [exec, execChecksum, h])

theorem historyArm_snInit (res : ResCode) (s : State) : HistoryArm (.snInit res) s := by
  cases ht : s.block.ticking with
  | true => exact .turnAway .illegalOperation (if_pos ht)
  | false =>
    refine .performs (reports := true) (continues_noResult (continues_snInit s.params res)) fun u hp hb => ?_
    simp only [exec, execSnInit, hp, hb, ht, Bool.false_eq_true, if_false]

theorem historyArm_orchTick (s : State) : HistoryArm .orchTick s := by
  cases ht : s.block.ticking with
  | true =>
    refine .performs (reports := false) (continues_noResult (continues_tickBody s.params)) fun u hp hb => ?_
    simp only [exec, execOrchTick, hp, hb, ht, if_true]
  | false => exact .skips (if_neg (by simp [ht]))

theorem historyArm_orchStart (s : State) : HistoryArm .orchStart s := by
  cases hi : s.block.initialized with
  | true => exact .computes (b := s.block.restart) rfl (if_pos hi)
  | false => exact .turnAway .illegalOperation (if_neg (by simp [hi]))

/-- Every row of the opcode table has its arm. -/
theorem exec_historyArm (i : Instr) (s : State) : HistoryArm i s := by
  cases i with
  -- layer 3
  | checksum bytes offset length => exact historyArm_checksum bytes offset length s
  | brReset => exact .performs (continues_noResult continues_brReset) fun _ _ _ => rfl
  | brWritecfg bits => exact .performs (continues_noResult (continues_brWritecfg bits)) fun _ _ _ => rfl
  | brResetch => exact .performs (continues_noResult continues_brResetch) fun _ _ _ => rfl
  | brWritebyte d => exact .performs (continues_noResult (continues_brWritebyte d)) fun _ _ _ => rfl
  | brReadbyte =>
    exact .performs ((continues_brReadbyte s.params).bind fun _ => Op.continues_pure _) fun u hp _ => by rw [← hp]; rfl
  | brReadbit =>
    exact .performs ((continues_brReadbit s.params).bind fun _ => Op.continues_pure _) fun u hp _ => by rw [← hp]; rfl
  | snInit res => exact historyArm_snInit res s
  | snMeasure =>
    exact .performs ((continues_snMeasure s.params).bind fun _ => Op.continues_pure _) fun u hp _ => by rw [← hp]; rfl
  | snDecode lsb msb res => exact .computes (b := s.block) rfl rfl
  | flRecord x => exact .computes (Block.history_record s.params s.block x) rfl
  | flAverage => exact .computes (b := s.block) rfl rfl
  | flReset => exact .computes (b := s.block.clearWindow) rfl rfl
  | ctEval x => exact .performs (continues_noResult (continues_ctEval x)) fun _ _ _ => rfl
  | ctSettarget x => exact .computes (b := s.block.setSetpoint x s.block.hyst) rfl rfl
  | ctSethyst h => exact .computes (b := s.block.setSetpoint s.block.target h) rfl rfl
  | ctSetunit u => exact .computes (s.block.history_changeUnit u) rfl
  | ctModeNext => exact .computes (b := s.block.setMode s.block.mode.next) rfl rfl
  | ctModePrev => exact .computes (b := s.block.setMode s.block.mode.prev) rfl rfl
  | orchTick => exact historyArm_orchTick s
  | orchStart => exact historyArm_orchStart s
  -- layer 1
  | bcSetptr arg => exact .fixedArgument Params.ptrData fun _ => rfl
  | bcWritecfg bits => exact .performs (continues_noResult (continues_bcWritecfg bits)) fun _ _ _ => rfl
  | bcSinglebit arg => exact .fixedArgument Params.bitTiming fun _ => rfl
  | bcDevreset | bcChreset | bcWritebyte _ | bcReadbyte => exact .commandAlone fun _ => rfl
  | bcTriplet => exact .refuses rfl
  -- layer 2
  | rcRead | rcSkip | fcConvert | fcWritesp | fcReadsp | fcCopysp | fcReadpower | resbyte9 | resbyte10 | resbyte11
  | resbyte12 => exact .sendAlone fun _ => rfl
  | rcSearch | rcMatch | rcAlarmsearch | fcRecall => exact .refuses rfl

/-- Every instruction only adds to the history. -/
theorem exec_history (h : exec i s = .next t) : s.block.history <+: t.block.history := by
  cases exec_historyArm i s with
  | computes hh he => cases he.symm.trans h; exact hh ▸ List.prefix_rfl
  | performs k he => exact perform_history k ((he s rfl rfl).symm.trans h)
  | skips he => cases he.symm.trans h; exact List.prefix_rfl
  | refuses he => cases he.symm.trans h

/-- What an instruction had recorded when it waited stays recorded when it is run again on more answers. -/
theorem exec_more {heard : List Answer} {more : List Stimulus} {t' : State} (hf : s.busy = none)
    (h : exec i { s with outside := heard.map .answer } = .next t) (hb : t.busy = some p)
    (h' : exec i { s with outside := heard.map .answer ++ more } = .next t') :
    t.block.history <+: t'.block.history := by
  cases exec_historyArm i { s with outside := heard.map .answer } with
  | computes _ he => cases he.symm.trans h; cases hb
  | performs k he =>
    have h' := (he { s with outside := heard.map .answer ++ more } rfl rfl).symm.trans h'
    exact perform_more k ((he _ rfl rfl).symm.trans h) hb rfl h'
  | skips he => cases he.symm.trans h; cases hf.symm.trans hb
  | refuses he => cases he.symm.trans h

/-- Going on with an operation in progress only adds to what it has recorded so far. -/
theorem resume_history {outside : List Stimulus} (hs : s.Sound) (hb : s.busy = some p)
    (h : resume p outside s = .next t) : s.block.history <+: t.block.history :=
  exec_more (s := { s with block := p.start, busy := none }) (t := { s with outside := [] }) rfl
    (hs.busy_faithful p hb).replay hb h

theorem hardReset_history (s : State) : s.block.history <+: s.hardReset.block.history :=
  s.block.history_putDrive .off

/-! ### What a step can come to -/

/-- Serving a request runs an instruction, or leaves the registers as they are. -/
theorem serve_next {r : Request} (h : serve r s = .next t) : (∃ i, exec i s = .next t) ∨ t.block = s.block := by
  unfold serve at h
  split at h
  · split at h
    · cases h; exact .inr rfl
    · split at h
      · exact .inl ⟨_, h⟩
      · cases h; exact .inr rfl
  · split at h
    · cases h
    · exact .inl ⟨_, h⟩

/-- All a step can come to where the machine goes on: the registers stay, a reset is taken, an instruction runs from
the registers as they are, or the operation in progress is resumed. -/
inductive StepNext (s t : State) : Prop where
  | keeps (h : t.block = s.block) : StepNext s t
  | resets {later : List Stimulus} (h : t = { s with outside := later }.hardReset) : StepNext s t
  | runs {i : Instr} {u : State} (hu : u.block = s.block) (h : exec i u = .next t) : StepNext s t
  | resumes {p : InProgress} {outside : List Stimulus} {drawn : Nat} (hb : s.busy = some p)
      (h : resume p outside { s with drawn := drawn } = .next t) : StepNext s t

theorem StepNext.of_serve {r : Request} (hu : u.block = s.block) (h : serve r u = .next t) : StepNext s t := by
  rcases serve_next h with ⟨i, h⟩ | h
  · exact .runs hu h
  · exact .keeps (h.trans hu)

theorem StepNext.of_tick (hu : u.block = s.block) (h : execOrchTick u = .next t) : StepNext s t :=
  .runs (i := .orchTick) hu h

theorem stepBusy_next (hb : s.busy = some p) (h : stepBusy p s = .next t) : StepNext s t := by
  unfold stepBusy at h
  split at h
  · exact .resumes hb h
  · exact .resumes (drawn := s.drawn) hb h
  · cases h; exact .keeps rfl
  · cases h; exact .keeps rfl
  · cases h; exact .resets rfl

theorem stepHeld_next {r : Request} {held : List Request} (h : stepHeld r held s = .next t) : StepNext s t := by
  unfold stepHeld at h
  split at h
  · cases h; exact .resets rfl
  · split at h
    · exact .of_tick (by rfl) h
    · exact .of_serve (by rfl) h
  · exact .of_serve (by rfl) h

theorem stepFree_next (h : stepFree s = .next t) : StepNext s t := by
  unfold stepFree at h
  split at h
  · cases h; exact .keeps rfl
  · cases h; exact .keeps rfl
  · exact .of_tick (by rfl) h
  · exact .of_serve (by rfl) h
  · cases h; exact .resets rfl

theorem step_next (h : step s = .next t) : StepNext s t := by
  unfold step advance at h
  split at h
  case h_1 hb => exact stepBusy_next hb h
  case h_2 => exact stepHeld_next h
  case h_3 => exact stepFree_next h

/-- Settles O14: an instruction only adds to the history, and one resumed goes on from what it had recorded. -/
theorem everyStepOnlyExtendsTheHistory : Obligations.EveryStepOnlyExtendsTheHistory := by
  intro s t hs h
  cases step_next h with
  | keeps h => rw [h]
  | resets h => rw [h]; exact hardReset_history _
  | runs hu h => rw [← hu]; exact exec_history h
  | @resumes _ _ drawn hb h =>
    exact resume_history (s := { s with drawn := drawn }) (hs.congr rfl rfl rfl) hb h

end Sys2Proof.Machine
end

section
/-! What a step of a busy block does, and of a free block with a request held (rules R60, R64, R218, R231). -/

namespace Sys2Proof.Machine

variable {i : Instr} {s : State} {p : InProgress} {r : Request} {held : List Request} {later : List Stimulus}

theorem step_of_busy (hb : s.busy = some p) : step s = stepBusy p s := by
  simp only [step, advance, hb]

theorem step_of_held (hf : s.busy = none) (hw : s.waiting = r :: held) : step s = stepHeld r held s := by
  simp only [step, advance, hf, hw]

/-! ### A busy block -/

theorem stepBusy_tick (h : s.outside = .tick :: later) : stepBusy p s = .next { s with outside := later } := by
  simp only [stepBusy, h]

theorem stepBusy_request (h : s.outside = .request r :: later) :
    stepBusy p s = .next { s with outside := later, waiting := s.waiting ++ [r] } := by
  simp only [stepBusy, h]

/-- An answer goes to the operation in progress, which runs from its start on all it has heard and what follows. -/
theorem stepBusy_answer {a : Answer} (h : s.outside = .answer a :: later) :
    stepBusy p s = exec p.instr { s with
      block := p.start, busy := none, outside := p.heard.map .answer ++ .answer a :: later } := by
  simp only [stepBusy, h, resume]

/-- With nothing listed the environment answers freely (rule R53). -/
theorem stepBusy_silent (h : s.outside = []) :
    stepBusy p s = stepBusy p { s with outside := [.answer (Config.freeAnswer s.drawn)], drawn := s.drawn + 1 } := by
  simp only [stepBusy, h, resume]

/-- Settles O8, one rule of the busy block for each thing that can arrive. -/
theorem busyBlockLosesTicksAndHoldsRequests : Obligations.BusyBlockLosesTicksAndHoldsRequests := by
  intro s p later hb
  rw [step_of_busy hb]
  refine ⟨stepBusy_tick, fun r => stepBusy_request, fun a => stepBusy_answer, fun h => ?_⟩
  exact (stepBusy_silent h).trans (step_of_busy (by exact hb)).symm

/-- Settles O15: an operation that waits is recorded with its start and its answers, so the step that resumes it runs
it from the same state on both parts. -/
theorem resumingEqualsRunningAtOnce : Obligations.ResumingEqualsRunningAtOnce := by
  intro i s t first a more p hf ho h hb
  rcases exec_next h with ⟨_, _, _, _, rfl⟩ | ⟨_, _, _, _, _, rfl⟩ | ⟨b, _, _, _, rfl⟩ | ⟨_, rfl⟩
  · cases hb
  · cases hb
  · rw [step_of_busy rfl, stepBusy_answer (by rfl), ho, takeAnswers_answers, List.map_append, ← hf]
    rfl
  · cases hf.symm.trans hb

/-! ### A free block with a request held -/

theorem stepHeld_tick (h : s.outside = .tick :: later) :
    stepHeld r held s = if Config.tickFirst s.drawn then exec .orchTick { s with outside := later, drawn := s.drawn + 1 }
      else serve r { s with waiting := held, drawn := s.drawn + 1 } := by
  simp only [stepHeld, h, exec]

/-- Where neither a tick nor a reset arrives, the held request is served. -/
theorem stepHeld_serves (h : ∀ later, s.outside ≠ .tick :: later ∧ s.outside ≠ .reset :: later) :
    stepHeld r held s = serve r { s with waiting := held } := by
  unfold stepHeld
  split
  case h_1 later ho => exact absurd ho (h later).2
  case h_2 later ho => exact absurd ho (h later).1
  case h_3 => rfl

theorem serve_host_issued {code : Byte} {args : Operands} (hd : decode (.op code args) = .ok i)
    (hm : i.hostMayIssue = true) (s : State) : serve (.host code args) s = exec i s := by
  simp only [serve, hd, hm, if_true]

/-- A host word that is no operation the host may issue is turned away (rule R95). -/
theorem serve_host_refused {code : Byte} {args : Operands}
    (hm : ∀ i, decode (.op code args) = .ok i → i.hostMayIssue = false) (s : State) :
    serve (.host code args) s = turnAway .illegalOperation s := by
  cases hd : decode (.op code args) with
  | error e => simp only [serve, hd]
  | ok i => simp only [serve, hd, hm i hd, Bool.false_eq_true, if_false]

theorem serve_invoke {w : Word} (hd : decode w = .ok i) (s : State) : serve (.invoke w) s = exec i s := by
  simp only [serve, hd]

theorem turnAway_of_free (e : Err) (hf : s.busy = none) : turnAway e s = .next { s with result := some ⟨e, none⟩ } := by
  rw [turnAway, ← hf]

/-- Settles O9: on a free block serving the request is `run`, and only a tick or a reset can go first. -/
theorem heldRequestIsServedOnceFree : Obligations.HeldRequestIsServedOnceFree := by
  intro s r held run hf hw hrun
  have served : ∀ u : State, u.busy = none → serve r u = run u := by
    rintro u hu
    rcases hrun with ⟨code, args, i, rfl, hd, hm, rfl⟩ | ⟨code, args, rfl, hm, rfl⟩ | ⟨w, i, rfl, hd, rfl⟩
    · exact serve_host_issued hd hm u
    · exact (serve_host_refused hm u).trans (turnAway_of_free _ hu)
    · exact serve_invoke hd u
  rw [step_of_held hf hw]
  refine ⟨fun h => (stepHeld_serves h).trans (served _ hf), fun later h => ?_⟩
  rw [stepHeld_tick h]
  split
  · exact .inl rfl
  · exact .inr (served _ hf)

end Sys2Proof.Machine
end

section
/-! The decoder and the encoder against each other (30_encoding.md): what is encoded is read back, a word has one
meaning, and the operation codes the host may issue. -/

namespace Sys2Proof

variable {i : Instr}

/-! ### Reading back an encoding -/

/-- The unsigned line of `CT_SETHYST` carries every magnitude (rules R93, R182). -/
theorem TempLine.magnitude_ofTemp {q : Temp} (hq : 0 ≤ q) : (TempLine.ofTemp q).magnitude = q := by
  have hd : q.den - 1 + 1 = q.den := Nat.sub_add_cancel q.den_pos
  have hn : ((q.num.natAbs : Nat) : Int) = q.num := Int.natAbs_of_nonneg (Rat.num_nonneg.mpr hq)
  simp only [TempLine.magnitude, TempLine.ofTemp, hd, hn, Rat.mkRat_self]

@[simp] theorem TempUnit.ofCode_code (u : TempUnit) : TempUnit.ofCode u.code = u := by
  cases u <;> rfl

/-- Settles O1, row by row: only the operands with a form of their own need a law, the byte list of `CHECKSUM` its
length, the temperatures and the unit their lines, the configuration its nibble-doubled byte. -/
theorem decodeReadsBackEveryEncoding : Obligations.DecodeReadsBackEveryEncoding := by
  intro i hw
  cases i with
  | checksum bytes offset length =>
    cases bytes with
    | none => rfl
    | some l => exact if_pos (of_decide_eq_true hw)
  | flRecord x => exact congrArg (fun q => Except.ok (Instr.flRecord q)) (TempLine.signed_ofTemp x)
  | ctEval x => exact congrArg (fun q => Except.ok (Instr.ctEval q)) (TempLine.signed_ofTemp x)
  | ctSettarget x => exact congrArg (fun q => Except.ok (Instr.ctSettarget q)) (TempLine.signed_ofTemp x)
  | ctSethyst h =>
    exact congrArg (fun q => Except.ok (Instr.ctSethyst q)) (TempLine.magnitude_ofTemp (of_decide_eq_true hw))
  | ctSetunit u => exact congrArg (fun v => Except.ok (Instr.ctSetunit v)) u.ofCode_code
  | bcWritecfg bits => exact decode_writecfg bits
  | _ => rfl

/-! ### One meaning to a word -/

/-- An operation code decodes to operations of that code (rule R92). -/
theorem decodeOp_encode {code : Byte} {args : Operands} (h : decodeOp code args = .ok i) :
    ∃ args', encode i = .op code args' := by
  unfold decodeOp at h
  split at h
  case h_1 =>
    split at h
    · cases h; exact ⟨_, rfl⟩
    · split at h <;> cases h; exact ⟨_, rfl⟩
  case h_22 => cases h
  all_goals cases h; exact ⟨_, rfl⟩

theorem decodeBusOne_encode {cmd : Byte} (h : decodeBusOne cmd = .ok i) : encode i = .bus [cmd] := by
  unfold decodeBusOne at h
  split at h <;> cases h <;> rfl

/-- A bus write of two bytes is the word of what it decodes to; the configuration byte is rebuilt from its low
nibble, because it is nibble-doubled (rule R74). -/
theorem decodeBusTwo_encode {cmd arg : Byte} (h : decodeBusTwo cmd arg = .ok i) : encode i = .bus [cmd, arg] := by
  unfold decodeBusTwo at h
  split at h
  case h_2 =>
    split at h
    case isTrue hc => cases h; exact congrArg (fun c => Word.bus [0xD2, c]) (cfgByte_of_legal hc)
    case isFalse => cases h
  all_goals cases h <;> rfl

theorem decodeBus_encode {bytes : List Byte} (h : decodeBus bytes = .ok i) : encode i = .bus bytes := by
  match bytes, h with
  | [cmd], h => exact decodeBusOne_encode h
  | [cmd, arg], h => exact decodeBusTwo_encode h

theorem decodeChannel_encode {b : Byte} (h : decodeChannel b = .ok i) : encode i = .channel b := by
  unfold decodeChannel at h
  split at h <;> cases h <;> rfl

/-- Settles O2, one lemma for each layer. -/
theorem eachWordHasOneMeaning : Obligations.EachWordHasOneMeaning := by
  intro w i h
  cases w with
  | op code args => exact decodeOp_encode h
  | bus bytes => exact decodeBus_encode h
  | channel b => exact decodeChannel_encode h

/-- Settles O3: the decoder evaluated on each word. -/
theorem wordsOfTheTablesDecode : Obligations.WordsOfTheTablesDecode :=
  ⟨rfl, rfl, rfl, rfl, rfl, rfl, rfl, rfl, rfl⟩

/-! ### The configuration byte -/

theorem nibbleDoubled_iff {c : Byte} : NibbleDoubled c = true ↔ (c >>> 4) ^^^ (c &&& 0x0F#8) = 0x0F#8 := beq_iff_eq

/-- The sixteen bytes `cfgbyte` produces are the nibble-doubled ones (rule R74). -/
theorem exists_cfgByte_iff {c : Byte} : (∃ bits, c = cfgByte bits) ↔ NibbleDoubled c = true :=
  ⟨fun ⟨bits, hc⟩ => hc ▸ (cfgByte_legal bits).1, fun h => ⟨_, (cfgByte_of_legal h).symm⟩⟩

/-- Settles O4: the byte's formula over its sixteen operands, and the decoder's test on the argument byte. -/
theorem configurationByteIsNibbleDoubled : Obligations.ConfigurationByteIsNibbleDoubled := by
  refine ⟨by decide, fun c => exists_cfgByte_iff.trans nibbleDoubled_iff, decode_writecfg, fun c hc => ?_⟩
  have hn : ¬ NibbleDoubled c = true := fun h => (exists_cfgByte_iff.mpr h).elim hc
  exact if_neg hn

end Sys2Proof
end

section
/-! What a step of a free block does (rules R91, R95, R230, R243), the constants of the resolution, and the rows of the
wire layers by themselves. -/

namespace Sys2Proof.Machine

variable {i : Instr} {s : State} {later : List Stimulus}

/-! ### The resolution -/

/-- The scale factor halves with every bit of resolution above eight (rule R85). -/
theorem decodeScale_eq {res : ResCode} {n : Nat} (h : resolutionBits res = 8 + n) :
    decodeScale res = 1 / 2 ^ n := by
  rw [decodeScale, h, Nat.add_sub_cancel_left]

/-- The conversion wait halves with every bit of resolution below twelve (rules R9, R85). -/
theorem tConvMs_eq {res : ResCode} {n : Nat} (h : decodeShift res = n) :
    tConvMs res = 750 / 2 ^ n := by
  rw [tConvMs, h]

/-- Settles O5, code by code: the bytes and shifts are read off, the two factors are powers of two. -/
theorem resolutionTable : Obligations.ResolutionTable :=
  ⟨⟨rfl, rfl, (decodeScale_eq (n := 1) rfl).trans (by norm_num), (tConvMs_eq (n := 3) rfl).trans (by norm_num)⟩,
    ⟨rfl, rfl, (decodeScale_eq (n := 2) rfl).trans (by norm_num), (tConvMs_eq (n := 2) rfl).trans (by norm_num)⟩,
    ⟨rfl, rfl, (decodeScale_eq (n := 3) rfl).trans (by norm_num), (tConvMs_eq (n := 1) rfl).trans (by norm_num)⟩,
    ⟨rfl, rfl, (decodeScale_eq (n := 4) rfl).trans (by norm_num), (tConvMs_eq (n := 0) rfl).trans (by norm_num)⟩⟩

/-! ### A free block -/

theorem step_of_free (hf : s.Free) : step s = stepFree s := by
  obtain ⟨hb, hw⟩ := hf
  simp only [step, advance, hb, hw]

theorem stepFree_request {r : Request} (h : s.outside = .request r :: later) :
    stepFree s = serve r { s with outside := later } := by
  simp only [stepFree, h]

theorem stepFree_tick (h : s.outside = .tick :: later) : stepFree s = exec .orchTick { s with outside := later } := by
  simp only [stepFree, h, exec]

theorem stepFree_answer {a : Answer} (h : s.outside = .answer a :: later) :
    stepFree s = .next { s with outside := later } := by
  simp only [stepFree, h]

theorem stepFree_silent (h : s.outside = []) : stepFree s = .next s := by
  simp only [stepFree, h]

theorem serve_invoke_refused {w : Word} {e : DecodeError} (hd : decode w = .error e) (s : State) :
    serve (.invoke w) s = .refused (.notAWord e) := by
  simp only [serve, hd]

/-- The operation codes the host may issue: rule R92's column "issued by", with the read 0x31 (rules R45, R95). -/
abbrev hostCodes : List Byte := [0x01#8, 0x20#8, 0x31#8, 0x41#8, 0x42#8, 0x43#8, 0x44#8, 0x45#8, 0x51#8]

theorem hostMayIssue_eq_contains {code : Byte} {args : Operands} (h : decodeOp code args = .ok i) :
    i.hostMayIssue = hostCodes.contains code := by
  unfold decodeOp at h
  split at h
  case h_1 =>
    split at h
    · cases h; rfl
    · split at h <;> cases h; rfl
  case h_22 => cases h
  all_goals cases h; rfl

/-- What an operation code decodes to is the host's exactly when the code is (rules R92, R95). -/
theorem hostMayIssue_iff {code : Byte} {args : Operands} (h : decode (.op code args) = .ok i) :
    i.hostMayIssue = true ↔ code ∈ hostCodes := by
  rw [hostMayIssue_eq_contains h, List.contains_iff_mem]

/-- Settles O6, one rule of the free block for each thing that can arrive. -/
theorem stepRunsTheDecodedInstruction : Obligations.StepRunsTheDecodedInstruction := by
  intro s later hf
  rw [step_of_free hf]
  refine ⟨fun w i h hd => ?_, fun code args i h hd hc => ?_, stepFree_tick, stepFree_silent, fun _ => stepFree_answer,
    fun w e h hd => ?_⟩
  · rw [stepFree_request h, serve_invoke hd]
  · rw [stepFree_request h, serve_host_issued hd ((hostMayIssue_iff hd).mpr hc)]
  · rw [stepFree_request h, serve_invoke_refused hd]

theorem exec_snInit_ticking {res : ResCode} (h : s.block.ticking = true) :
    exec (.snInit res) s = turnAway .illegalOperation s := if_pos h

theorem exec_orchStart_uninitialized (h : s.block.initialized = false) :
    exec .orchStart s = turnAway .illegalOperation s := if_neg (by simp [h])

/-- The three refusals of the host's port (rule R95) are turned away with `IllegalOperation`. -/
theorem serve_host_illegal {code : Byte} {args : Operands}
    (h : code ∉ hostCodes ∨ (code = 0x20#8 ∧ s.block.ticking = true) ∨ (code = 0x51#8 ∧ s.block.initialized = false)) :
    serve (.host code args) s = turnAway .illegalOperation s := by
  rcases h with hc | ⟨rfl, ht⟩ | ⟨rfl, hi⟩
  · exact serve_host_refused (fun i hd => by rw [← Bool.not_eq_true, hostMayIssue_iff hd]; exact hc) s
  · exact (serve_host_issued (i := .snInit args.res) rfl rfl s).trans (exec_snInit_ticking ht)
  · exact (serve_host_issued (i := .orchStart) rfl rfl s).trans (exec_orchStart_uninitialized hi)

/-- Settles O7: a free block serves the host's word at once, and each refusal turns it away. -/
theorem hostPortRefusesWhatTheHostMayNotDo : Obligations.HostPortRefusesWhatTheHostMayNotDo := by
  refine ⟨fun s code args later hf ho hc => ?_, fun code args i => hostMayIssue_iff⟩
  rw [step_of_free hf, stepFree_request ho, serve_host_illegal (by exact hc), turnAway_of_free _ (by exact hf.1)]

/-! ### The rows of the wire layers by themselves -/

/-- An operation that returns on the answers at the head of the outside world, whatever follows them. -/
theorem perform_returns {op : Op (Option Value)} {as : List Answer} {v : Option Value} {b : Block}
    (h : ∀ rest, op ⟨s.block, as ++ rest⟩ = .ok v ⟨b, rest⟩) (ho : s.outside = as.map .answer ++ later) :
    perform i true op s = .next (s.returned b later v) := by
  simp only [perform, ho, takeAnswers_append, h, takeAnswers_join, State.returned, if_true]

/-- An operation that raises on the answers at the head of the outside world, whatever follows them. -/
theorem perform_fails {op : Op (Option Value)} {as : List Answer} {e : Err} {b : Block}
    (h : ∀ rest, op ⟨s.block, as ++ rest⟩ = .error (.raised e) ⟨b.idlePhases, rest⟩)
    (ho : s.outside = as.map .answer ++ later) : perform i true op s = .next (s.failed b later e) := by
  simp only [perform, ho, takeAnswers_append, h, takeAnswers_join, State.failed, if_true]

/-- Instruction `i` in state `s` is one bus write of `bytes`: answered, it returns with `shadow` in `cfg_shadow`; timed
out, it fails with the registers as they were. -/
def OneWrite (s : State) (i : Instr) (bytes : List Byte) (shadow : Option Nibble) : Prop :=
  ∀ (ack : Byte) (later : List Stimulus),
    (s.outside = .answer (.reply ack) :: later →
      exec i s = .next (s.returned { s.block with
        brPhase := .brIdle, history := s.block.history ++ [.busWrite bytes true], cfgShadow := shadow } later none))
    ∧ (s.outside = .answer .timeout :: later →
      exec i s = .next (s.failed
        { s.block with history := s.block.history ++ [.busWrite bytes false] } later .transportTimeout))

theorem oneWrite_commandAlone {ph : BrPhase} {bytes : List Byte}
    (he : exec i s = perform i true (noResult (commandAlone ph bytes)) s) : OneWrite s i bytes s.block.cfgShadow := by
  intro ack later
  rw [he]
  exact ⟨fun ho => perform_returns (as := [.reply ack]) (fun _ => rfl) ho,
    fun ho => perform_fails (as := [.timeout]) (fun _ => rfl) ho⟩

/-- Write-configuration by itself also keeps its bits (rule R25). -/
theorem oneWrite_bcWritecfg (s : State) (bits : Nibble) :
    OneWrite s (.bcWritecfg bits) [0xD2, cfgByte bits] (some bits) := fun ack _ =>
  ⟨fun ho => perform_returns (as := [.reply ack]) (fun _ => rfl) ho,
    fun ho => perform_fails (as := [.timeout]) (fun _ => rfl) ho⟩

/-- A command with the one argument it has in this block is its one bus write. -/
theorem oneWrite_fixedArgument {ph : BrPhase} {cmd only : Byte}
    (he : exec i s = fixedArgument i ph cmd only only s) : OneWrite s i [cmd, only] s.block.cfgShadow :=
  oneWrite_commandAlone (he.trans (if_pos rfl))

/-- Settles O27: each command is its one write, and the two with a fixed argument turn every other away. -/
theorem bridgeCommandsAlone : Obligations.BridgeCommandsAlone := by
  refine ⟨fun s ack arg bits later i bytes h => ?_, fun s arg i h => ?_⟩
  · suffices OneWrite s i bytes (if i = .bcWritecfg bits then some bits else s.block.cfgShadow) from this ack later
    simp only [List.mem_cons, Prod.mk.injEq, List.not_mem_nil, or_false] at h
    rcases h with ⟨rfl, rfl⟩ | ⟨rfl, rfl⟩ | ⟨rfl, rfl⟩ | ⟨rfl, rfl⟩ | ⟨rfl, rfl⟩ | ⟨rfl, rfl⟩ | ⟨rfl, rfl⟩
    case inr.inr.inl => rw [if_pos rfl]; exact oneWrite_bcWritecfg s bits
    all_goals rw [if_neg nofun]
    · exact oneWrite_commandAlone rfl
    · exact oneWrite_fixedArgument rfl
    · exact oneWrite_commandAlone rfl
    · exact oneWrite_fixedArgument rfl
    · exact oneWrite_commandAlone rfl
    · exact oneWrite_commandAlone rfl
  · rcases h with ⟨rfl, hne⟩ | ⟨rfl, hne⟩
    · exact if_neg hne
    · exact if_neg hne

/-- Performing the same operation for another instruction differs in the record of what is in progress alone. -/
theorem perform_for {j : Instr} {reports : Bool} {op : Op (Option Value)} {t : State}
    (h : perform j reports op s = .next t) :
    perform i reports op s = .next { t with busy := t.busy.map fun p => { p with instr := i } } := by
  unfold perform at h ⊢
  dsimp only at h ⊢
  split at h
  · cases h; rfl
  · cases h; rfl
  · cases h; rfl
  · cases h

/-- A byte write that is polled to its end, by itself (rules R116, R117). -/
theorem sendAlone_good {d ack last : Byte} {busy : List Byte} (hb : ∀ x ∈ busy, x.getLsbD 0 = true)
    (hl : last.getLsbD 0 = false) (ho : s.outside = (heardAll ack busy [.reply last]).map .answer ++ later) :
    sendAlone i d s = .next (s.returned
      { s.block with brPhase := .brIdle, lastStatus := some last,
                     history := s.block.history ++ .busWrite [0xA5, d] true :: busy.map readEvent ++ [readEvent last] }
      later none) := by
  have hg : (Exchange.send d ack busy last).good = true := by
    simp only [Exchange.good, Bool.and_eq_true, List.all_eq_true, Bool.not_eq_true', stBusy_eq]
    exact ⟨hb, hl⟩
  have hop : (noResult (brWritebyte d)).Hears s.block [.send d ack busy last] none
      (s.block.spoke s.params [.send d ack busy last]) :=
    (hears_brWritebyte s.params s.block rfl hg).bind (Op.hears_pure none _)
  have heard : s.Hears [.send d ack busy last] later := by
    simpa [State.Hears, heardAll, Exchange.answers] using ho
  rw [sendAlone, perform_hears hop heard]
  simp [Block.spoke, Block.conversed, Block.setBrPhase, Exchange.status, Exchange.config, Exchange.events, laterOf]

/-- Settles O28: the channel bytes perform the byte write of their value under their own name. -/
theorem channelBytesAlone : Obligations.ChannelBytesAlone := by
  intro s i d h
  have he : exec i s = sendAlone i d s := by
    simp only [List.mem_cons, Prod.mk.injEq, List.not_mem_nil, or_false] at h
    rcases h with ⟨rfl, rfl⟩ | ⟨rfl, rfl⟩ | ⟨rfl, rfl⟩ | ⟨rfl, rfl⟩ | ⟨rfl, rfl⟩ | ⟨rfl, rfl⟩ | ⟨rfl, rfl⟩ | ⟨rfl, rfl⟩
      | ⟨rfl, rfl⟩ | ⟨rfl, rfl⟩ | ⟨rfl, rfl⟩ <;> rfl
  rw [he]
  exact ⟨fun t ht => perform_for ht, fun ack last busy later => sendAlone_good⟩

/-! ### What stops by name, and the reserved state -/

/-- Settles O29: each of the five is refused under its own mnemonic. -/
theorem constantsWithoutOperationStop : Obligations.ConstantsWithoutOperationStop :=
  fun _ => ⟨rfl, rfl, rfl, rfl, rfl⟩

/-- In the reserved state `CT_EVAL` raises before it writes (rule R217). -/
theorem ctEval_reserved {b : Block} (h : b.state = .reserved) (avg : Temp) (as : List Answer) :
    ctEval avg ⟨b, as⟩ = .error (.raised .invariantViolation) ⟨b.idlePhases, as⟩ := by
  rw [ctEval, Op.bind_ok (look_apply _), decide_eq_false (not_not_intro h), Op.bind_error (require_false _ _)]

/-- Settles O45: the evaluation raises, and the recovery boundary makes it the safe state. -/
theorem reservedStateIsAnInvariantViolation : Obligations.ReservedStateIsAnInvariantViolation :=
  fun _ avg h => perform_fails (as := []) (fun rest => Op.bind_error (ctEval_reserved h avg rest)) rfl

end Sys2Proof.Machine
end

section
/-! What the instructions may write to the bus (rules R55, R70, R71, R74, R76, R78). -/

namespace Sys2Proof.Machine

variable {ok : Event → Bool} {p : Params} {i : Instr} {s t : State}

/-! ### The lawful writes and the listed ones -/

/-- An event that is no bus write but one of a command of rule R71 in its format, the read pointer set to nothing but
the data register (rule R55) and the timing byte nothing but `BIT_TIMING` (rule R76). -/
def Event.lawful (p : Params) : Event → Bool
  | .busWrite bytes _ => match decode (.bus bytes) with
    | .ok (.bcSetptr arg) => arg == p.ptrData
    | .ok (.bcSinglebit arg) => arg == p.bitTiming
    | .ok _ => true
    | .error _ => false
  | .busRead _ | .delay _ | .drive _ | .notify _ => true

theorem Event.decode_of_lawful {bytes : List Byte} {r : Bool} (h : (Event.busWrite bytes r).lawful p = true) :
    ∃ j, decode (.bus bytes) = .ok j := by
  cases hd : decode (.bus bytes) with
  | ok j => exact ⟨j, rfl⟩
  | error e => simp [Event.lawful, hd] at h

theorem Event.lawful_setptr {arg : Byte} {r : Bool} :
    (Event.busWrite [0xE1, arg] r).lawful p = true ↔ arg = p.ptrData := beq_iff_eq

theorem Event.lawful_singlebit {arg : Byte} {r : Bool} :
    (Event.busWrite [0x87, arg] r).lawful p = true ↔ arg = p.bitTiming := beq_iff_eq

theorem Event.lawful_writecfg (p : Params) (bits : Nibble) (r : Bool) :
    (Event.busWrite [0xD2, cfgByte bits] r).lawful p = true := by
  simp only [Event.lawful, decode_writecfg]

theorem Event.listed_iff {bytes : List Byte} {r : Bool} :
    (Event.busWrite bytes r).listed p = true ↔ bytes ∈ listedWrites p := List.contains_iff_mem

/-- Every byte list of rule R78 is a command in its format. -/
theorem lawful_of_mem_listedWrites (p : Params) (r : Bool) :
    ∀ bytes ∈ listedWrites p, (Event.busWrite bytes r).lawful p = true := by
  simp only [listedWrites, List.forall_mem_cons]
  exact ⟨rfl, Event.lawful_writecfg p _ r, rfl, Event.lawful_singlebit.mpr rfl, rfl, rfl, rfl, rfl, rfl, rfl, rfl, rfl,
    rfl, rfl, rfl, rfl, rfl, Event.lawful_setptr.mpr rfl, nofun⟩

theorem Event.lawful_of_listed {e : Event} (h : e.listed p = true) : e.lawful p = true := by
  cases e with
  | busWrite bytes r => exact lawful_of_mem_listedWrites p r bytes (Event.listed_iff.mp h)
  | busRead | delay | drive | notify => rfl

theorem Block.Added.imp {ok' : Event → Bool} {b b' : Block} (h : Block.Added ok b b')
    (hi : ∀ e, ok e = true → ok' e = true) : Block.Added ok' b b' := by
  obtain ⟨l, hl, hall⟩ := h
  exact ⟨l, hl, List.all_eq_true.mpr fun e he => hi e (List.all_eq_true.mp hall e he)⟩

/-! ### What performing an operation adds -/

theorem Op.Adds.noResult {op : Op Unit} (h : op.Adds ok) : (noResult op).Adds ok := h.bind fun _ => Op.adds_pure _

/-- Performing adds what the operation adds and, where it raises, the events of the safe state. -/
theorem perform_added {reports : Bool} {op : Op (Option Value)} (h : op.Adds ok) (hd : ∀ d, ok (.drive d) = true)
    (hn : ∀ n, ok (.notify n) = true) (ht : perform i reports op s = .next t) : Block.Added ok s.block t.block := by
  have hx := h ⟨s.block, (takeAnswers s.outside).1⟩
  rcases @perform_cases i reports op s with ⟨v, c, hc, hp⟩ | ⟨e, c, hc, hp⟩ | ⟨c, hc, hp⟩ | ⟨f, c, hc, hp⟩ <;>
    rw [hc] at hx <;> cases hp.symm.trans ht
  · exact hx
  · exact hx.trans (c.block.added_safeState e (hd _) (hn _))
  · exact hx

/-! ### The sensor operations and the tick write listed byte lists only -/

section
variable (p)

theorem listed_of_mem {bytes : List Byte} (h : bytes ∈ listedWrites p := by simp [listedWrites]) (r : Bool) :
    (Event.busWrite bytes r).listed p = true := Event.listed_iff.mpr h

theorem resByte_mem (res : ResCode) : resByte res ∈ [0x1F#8, 0x3F#8, 0x5F#8, 0x7F#8] := by
  revert res; decide

theorem adds_reset_listed : brReset.Adds (Event.listed p) :=
  adds_brReset (fun _ => rfl) (listed_of_mem p)

theorem adds_resetch_listed : brResetch.Adds (Event.listed p) :=
  adds_brResetch (fun _ => rfl) (listed_of_mem p)

/-- The bytes the sensor operations send on the channel (rules R79, R80, R82). -/
theorem adds_send_listed {d : Byte} (h : [0xA5, d] ∈ listedWrites p := by simp [listedWrites]) :
    (brWritebyte d).Adds (Event.listed p) :=
  adds_brWritebyte (fun _ => rfl) (listed_of_mem p h)

theorem adds_readbit_listed : (brReadbit p).Adds (Event.listed p) :=
  adds_brReadbit (fun _ => rfl) (listed_of_mem p)

theorem adds_readBytes_listed (n : Nat) : (readBytes p n).Adds (Event.listed p) :=
  adds_readBytes (adds_brReadbyte (fun _ => rfl) (listed_of_mem p) (listed_of_mem p)) n

theorem adds_strongPullup_listed (par : Bool) : (strongPullup p par).Adds (Event.listed p) := by
  cases par with
  | false => exact Op.adds_pure _
  | true => exact adds_brWritecfg (listed_of_mem p)

theorem adds_select_listed : select.Adds (Event.listed p) :=
  (adds_resetch_listed p).bind fun _ => adds_send_listed p

theorem adds_readRom_listed : (readRom p).Adds (Event.listed p) :=
  (adds_resetch_listed p).bind fun _ => (adds_send_listed p).bind fun _ =>
    (adds_readBytes_listed p 8).bind fun _ => (adds_require _ _).bind fun _ => Op.adds_pure _

theorem adds_probePower_listed : (probePower p).Adds (Event.listed p) :=
  (adds_select_listed p).bind fun _ => (adds_send_listed p).bind fun _ =>
    (adds_readbit_listed p).bind fun _ => Op.adds_pure _

theorem adds_writeResolution_listed (res : ResCode) : (writeResolution res).Adds (Event.listed p) := by
  have hres : [0xA5, resByte res] ∈ listedWrites p := by
    have := resByte_mem res
    simp only [List.mem_cons, List.not_mem_nil, or_false] at this
    rcases this with h | h | h | h <;> simp [listedWrites, h]
  exact (adds_select_listed p).bind fun _ => (adds_send_listed p).bind fun _ => (adds_send_listed p).bind fun _ =>
    (adds_send_listed p).bind fun _ => adds_send_listed p hres

theorem adds_copyToEeprom_listed (par : Bool) : (copyToEeprom p par).Adds (Event.listed p) := by
  refine (adds_select_listed p).bind fun _ => (adds_strongPullup_listed p par).bind fun _ =>
    (adds_send_listed p).bind fun _ => ?_
  cases par with
  | false => exact Op.adds_pure _
  | true => exact adds_delay rfl

theorem adds_snInit_listed (res : ResCode) : (snInit p res).Adds (Event.listed p) :=
  (adds_reset_listed p).bind fun _ => (adds_readRom_listed p).bind fun _ => (adds_probePower_listed p).bind fun _ =>
    (adds_writeResolution_listed p res).bind fun _ => (adds_copyToEeprom_listed p _).bind fun _ =>
      adds_update (by exact fun _ => rfl)

theorem adds_setSnPhase (ph : SnPhase) : (update (·.setSnPhase ph)).Adds ok := adds_update fun _ => rfl

theorem adds_triggerConversion_listed : (triggerConversion p).Adds (Event.listed p) :=
  (adds_setSnPhase _).bind fun _ => (adds_resetch_listed p).bind fun _ => (adds_setSnPhase _).bind fun _ =>
    (adds_send_listed p).bind fun _ => adds_look.bind fun _ => (adds_present _ _).bind fun par =>
      (adds_strongPullup_listed p par).bind fun _ => (adds_setSnPhase _).bind fun _ => adds_send_listed p

theorem adds_readScratchpad_listed : (readScratchpad p).Adds (Event.listed p) :=
  (adds_setSnPhase _).bind fun _ => (adds_resetch_listed p).bind fun _ => (adds_send_listed p).bind fun _ =>
    (adds_send_listed p).bind fun _ => (adds_readBytes_listed p 9).bind fun _ =>
      (adds_update (by exact fun _ => rfl)).bind fun _ => Op.adds_pure _

theorem adds_scratchpadLoop_listed : (fuel attempts : Nat) → (scratchpadLoop p fuel attempts).Adds (Event.listed p)
  | 0, _ => fun _ => Block.Added.same rfl
  | fuel + 1, attempts => by
    refine (adds_require _ _).bind fun _ => (adds_readScratchpad_listed p).bind fun v => ?_
    split
    · exact (adds_setSnPhase _).bind fun _ => Op.adds_pure _
    · exact (adds_setSnPhase _).bind fun _ => adds_scratchpadLoop_listed fuel (attempts + 1)

theorem adds_validScratchpad_listed : (validScratchpad p).Adds (Event.listed p) :=
  fun c => adds_scratchpadLoop_listed p (c.answers.length + 1) 0 c

theorem adds_snMeasure_listed : (snMeasure p).Adds (Event.listed p) :=
  (adds_triggerConversion_listed p).bind fun _ => adds_look.bind fun _ => (adds_present _ _).bind fun _ =>
    ((adds_setSnPhase _).bind fun _ => adds_delay rfl).bind fun _ => (adds_validScratchpad_listed p).bind fun _ =>
      (adds_setSnPhase _).bind fun _ => (adds_setSnPhase _).bind fun _ => Op.adds_pure _

end

theorem adds_ctEval (x : Temp) : (ctEval x).Adds ok :=
  adds_look.bind fun _ => (adds_require _ _).bind fun _ => adds_update fun _ => rfl

/-- Applying the state to the outputs adds at most a change of `drive`. -/
theorem adds_applyDrive (hd : ∀ d, ok (.drive d) = true) : (update (·.applyDrive)).Adds ok := by
  refine fun c => ⟨_, c.block.putDrive_history_append (driveOf c.block.state), ?_⟩
  split
  · rfl
  · simp [hd]

theorem adds_notify (n : Notification) (hn : ok (.notify n) = true) : (update (·.emit (.notify n))).Adds ok :=
  fun _ => Block.Added.one rfl hn

theorem adds_tickBody_listed (p : Params) : (tickBody p).Adds (Event.listed p) :=
  (adds_snMeasure_listed p).bind fun _ => (adds_update (by exact fun _ => rfl)).bind fun _ =>
    (adds_update (by exact fun b => b.history_record p _)).bind fun _ => adds_look.bind fun _ =>
      (adds_present _ _).bind fun _ => (adds_ctEval _).bind fun _ => (adds_applyDrive fun _ => rfl).bind fun _ =>
        adds_notify _ rfl

/-- What `SN_INIT`, `SN_MEASURE` and a tick add holds no write but those of rule R78. -/
theorem exec_listed (hi : i = .snMeasure ∨ i = .orchTick ∨ ∃ res, i = .snInit res) (h : exec i s = .next t) :
    Block.Added (Event.listed s.params) s.block t.block := by
  rcases hi with rfl | rfl | ⟨res, rfl⟩
  · exact perform_added ((adds_snMeasure_listed s.params).bind fun _ => Op.adds_pure _) (fun _ => rfl) (fun _ => rfl) h
  · simp only [exec, execOrchTick] at h
    split at h
    · exact perform_added (adds_tickBody_listed s.params).noResult (fun _ => rfl) (fun _ => rfl) h
    · cases h; exact .same rfl
  · simp only [exec, execSnInit] at h
    split at h
    · cases h; exact .same rfl
    · exact perform_added (adds_snInit_listed s.params res).noResult (fun _ => rfl) (fun _ => rfl) h

/-! ### Every instruction writes lawfully -/

theorem perform_lawful {reports : Bool} {op : Op (Option Value)} (h : op.Adds (Event.lawful s.params))
    (ht : perform i reports op s = .next t) : Block.Added (Event.lawful s.params) s.block t.block :=
  perform_added h (fun _ => rfl) (fun _ => rfl) ht

theorem adds_commandAlone {ph : BrPhase} {bytes : List Byte} (hw : ∀ r, ok (.busWrite bytes r) = true) :
    (commandAlone ph bytes).Adds ok :=
  (adds_update (by exact fun _ => rfl)).bind fun _ => (adds_busWrite hw).bind fun _ => adds_update (by exact fun _ => rfl)

/-- A channel byte, by itself, is a byte write. -/
theorem sendAlone_lawful {d : Byte} (h : sendAlone i d s = .next t) :
    Block.Added (Event.lawful s.params) s.block t.block :=
  perform_lawful (adds_brWritebyte (fun _ => rfl) fun _ => rfl).noResult h

theorem commandAlone_lawful {ph : BrPhase} {bytes : List Byte}
    (hw : ∀ r, (Event.busWrite bytes r).lawful s.params = true)
    (h : perform i true (noResult (commandAlone ph bytes)) s = .next t) :
    Block.Added (Event.lawful s.params) s.block t.block :=
  perform_lawful (adds_commandAlone hw).noResult h

theorem fixedArgument_lawful {ph : BrPhase} {cmd only arg : Byte}
    (hw : ∀ r, (Event.busWrite [cmd, only] r).lawful s.params = true)
    (h : fixedArgument i ph cmd only arg s = .next t) : Block.Added (Event.lawful s.params) s.block t.block := by
  unfold fixedArgument at h
  split at h
  case isTrue ha => subst ha; exact commandAlone_lawful hw h
  case isFalse => cases h; exact .same rfl

/-- Whatever an instruction writes to the bus is a command in its format, with its fixed argument where it has one. -/
theorem exec_lawful (h : exec i s = .next t) : Block.Added (Event.lawful s.params) s.block t.block := by
  cases i with
  -- layer 3
  | snInit res => exact (exec_listed (.inr (.inr ⟨res, rfl⟩)) h).imp fun _ => Event.lawful_of_listed
  | snMeasure => exact (exec_listed (.inl rfl) h).imp fun _ => Event.lawful_of_listed
  | orchTick => exact (exec_listed (.inr (.inl rfl)) h).imp fun _ => Event.lawful_of_listed
  | brReset => exact perform_lawful (adds_brReset (fun _ => rfl) fun _ => rfl).noResult h
  | brWritecfg bits => exact perform_lawful (adds_brWritecfg (Event.lawful_writecfg s.params bits)).noResult h
  | brResetch => exact perform_lawful (adds_brResetch (fun _ => rfl) fun _ => rfl).noResult h
  | brWritebyte d => exact perform_lawful (adds_brWritebyte (fun _ => rfl) fun _ => rfl).noResult h
  | brReadbyte =>
    exact perform_lawful ((adds_brReadbyte (fun _ => rfl) (fun _ => rfl) fun _ => Event.lawful_setptr.mpr rfl).bind
      fun _ => Op.adds_pure _) h
  | brReadbit =>
    exact perform_lawful ((adds_brReadbit (fun _ => rfl) fun _ => Event.lawful_singlebit.mpr rfl).bind
      fun _ => Op.adds_pure _) h
  | ctEval x => exact perform_lawful (adds_ctEval x).noResult h
  | checksum bytes offset length =>
    simp only [exec, execChecksum] at h
    split at h <;> cases h <;> exact .same rfl
  | orchStart =>
    simp only [exec, execOrchStart] at h
    split at h <;> cases h <;> exact .same rfl
  | flRecord x => cases h; exact .same (s.block.history_record s.params x)
  | ctSetunit u => cases h; exact .same (s.block.history_changeUnit u)
  | snDecode | flAverage | flReset | ctSettarget | ctSethyst | ctModeNext | ctModePrev => cases h; exact .same rfl
  -- layer 1
  | bcDevreset | bcChreset | bcWritebyte | bcReadbyte => exact commandAlone_lawful (fun _ => rfl) h
  | bcSetptr arg => exact fixedArgument_lawful (fun _ => Event.lawful_setptr.mpr rfl) h
  | bcSinglebit arg => exact fixedArgument_lawful (fun _ => Event.lawful_singlebit.mpr rfl) h
  | bcWritecfg bits =>
    exact perform_lawful ((adds_commandAlone (Event.lawful_writecfg s.params bits)).bind
      fun _ => adds_update (by exact fun _ => rfl)).noResult h
  -- layer 2
  | rcRead | rcSkip | fcConvert | fcWritesp | fcReadsp | fcCopysp | fcReadpower | resbyte9 | resbyte10 | resbyte11
  | resbyte12 => exact sendAlone_lawful h
  | bcTriplet | rcSearch | rcMatch | rcAlarmsearch | fcRecall => cases h

/-- Settles O58: what an instruction adds is lawful, and for the sensor operations and the tick the same events are
listed. -/
theorem onlyListedBytesReachTheBus : Obligations.OnlyListedBytesReachTheBus := by
  intro i s t h
  obtain ⟨added, ha, hl⟩ := exec_lawful h
  have lawful {e : Event} (he : e ∈ added) : e.lawful s.params = true := List.all_eq_true.mp hl e he
  refine ⟨added, ha, fun hi => ?_, fun bytes r he => Event.decode_of_lawful (lawful he),
    fun arg r => ⟨fun he => Event.lawful_setptr.mp (lawful he), fun he => Event.lawful_singlebit.mp (lawful he)⟩⟩
  obtain ⟨added', ha', hl'⟩ := exec_listed hi h
  rwa [List.append_cancel_left (ha.symm.trans ha')]

end Sys2Proof.Machine
end

section
/-! The Checksum Engine (40_checksum.md): the selection of rule R104, the table of rule R102 as the bit-serial form of
rule R107, and the properties of rules R105 and R106. -/

namespace Sys2Proof.Machine

/-! ### The operation -/

/-- Settles O16: `CHECKSUM` turns away what `checksum` rejects and otherwise hands its value back. -/
theorem checksumOfTheSelectedBytes : Obligations.ChecksumOfTheSelectedBytes := by
  intro bytes offset length s
  cases bytes with
  | none => rfl
  | some l =>
    simp only [exec, execChecksum, checksum_some]
    by_cases hbad : length.toNat = 0 ∨ l.length < offset.toNat + length.toNat
    · rw [if_pos hbad, if_pos hbad]
      rfl
    · rw [if_neg hbad, if_neg hbad]
      rfl

/-! ### A difference is carried to the end (rule R106) -/

section
variable {p : Params} (h : p.crcTable.toList.Nodup)
include h

theorem crcStep_injective_acc (b : Byte) : Function.Injective fun acc => crcStep p acc b :=
  fun _ _ heq => (BitVec.xor_left_inj b).mp (crcLookup_injective h heq)

theorem crcStep_injective_byte (acc : Byte) : Function.Injective (crcStep p acc) :=
  fun _ _ heq => (BitVec.xor_right_inj acc).mp (crcLookup_injective h heq)

/-- No byte that follows makes two accumulators equal again. -/
theorem crcFold_injective_acc (l : List Byte) : Function.Injective fun acc => crcFold p acc l := by
  induction l with
  | nil => exact Function.injective_id
  | cons b l ih => exact ih.comp (crcStep_injective_acc h b)

end

/-- Settles O18: the accumulators differ right after the changed byte, and the bytes behind it keep them apart. -/
theorem checksumSeesEveryOneByteChange : Obligations.ChecksumSeesEveryOneByteChange := by
  intro p acc front back b b' h hb heq
  rw [crcFold_append, crcFold_append] at heq
  exact hb (crcStep_injective_byte h _ (crcFold_injective_acc h back heq))

/-! ### The table is the bit-serial form (rules R102, R107) -/

/-- The lowest bit of an input byte may be folded in beforehand; its other bits then move along with the
accumulator. -/
theorem serialBit_xor (acc b : Byte) : serialBit (acc ^^^ b) false = serialBit acc (b.getLsbD 0) ^^^ (b >>> 1) := by
  simp only [serialBit, BitVec.getLsbD_xor, Bool.xor_false, BitVec.ushiftRight_xor_distrib]
  split
  · ac_rfl
  · rfl

/-- After `n` bits the serial form still owes the bits above them, which the recurrence took in at its start. -/
theorem foldl_serialBit_xor (acc b : Byte) (n : Nat) :
    (List.range n).foldl (fun a _ => serialBit a false) (acc ^^^ b)
      = (List.range n).foldl (fun a j => serialBit a (b.getLsbD j)) acc ^^^ (b >>> n) := by
  induction n with
  | zero => simp
  | succ n ih =>
    have hbit : b.getLsbD n = (b >>> n).getLsbD 0 := by simp
    simp only [List.range_succ, List.foldl_append, List.foldl_cons, List.foldl_nil, ih, serialBit_xor, hbit,
      BitVec.shiftRight_add]

theorem serialByte_zero (a : Byte) : serialByte a 0 = (List.range 8).foldl (fun c _ => serialBit c false) a := by
  simp [serialByte]

/-- Exclusive-or first and shift afterwards, or bit by bit: the same byte (rules R101, R107). -/
theorem serialByte_xor_zero (acc b : Byte) : serialByte (acc ^^^ b) 0 = serialByte acc b := by
  have hb : b >>> 8 = 0#8 := BitVec.ushiftRight_eq_zero le_rfl
  rw [serialByte_zero, foldl_serialBit_xor, hb, BitVec.xor_zero, serialByte]

/-- Entry `a` of the table of rule R102 is eight serial steps on `a`, one check for each of the 256 entries. -/
theorem crcLookup_eq_serialByte {p : Params} (h : p.crcTable = maximTable) (a : Byte) :
    crcLookup p a = serialByte a 0 := by
  rw [crcLookup_maxim h]
  revert a
  decide +kernel

theorem crcStep_eq_serialByte {p : Params} (h : p.crcTable = maximTable) : crcStep p = serialByte := by
  funext acc b
  rw [crcStep, crcLookup_eq_serialByte h, serialByte_xor_zero]

/-- Settles O17: the recurrence is the serial step with the bit 0. -/
theorem checksumTableIsTheRecurrence : Obligations.ChecksumTableIsTheRecurrence := by
  refine ⟨fun i => ?_, crcRows_length, rfl, by decide +kernel⟩
  rw [crcLookup_eq_serialByte rfl, serialByte_zero]
  simp only [serialBit, Bool.xor_false]

/-- Settles O19: the two forms take the same step on each byte. -/
theorem bitSerialChecksumAgrees : Obligations.BitSerialChecksumAgrees := by
  intro p acc bytes h
  rw [crcFold, crcStep_eq_serialByte h]

/-! ### Records that carry their checksum (rule R105) -/

section
variable {p : Params} (h : p.crcTable = maximTable)
include h

/-- A step clears the accumulator exactly on the byte that equals it. -/
theorem crcStep_eq_zero (acc b : Byte) : crcStep p acc b = 0 ↔ acc = b :=
  (crcLookup_eq_zero h _).trans BitVec.xor_eq_zero_iff

theorem crcFold_replicate_zero (k : Nat) : crcFold p 0 (List.replicate k 0) = 0 := by
  induction k with
  | zero => rfl
  | succ k ih => rw [List.replicate_succ, crcFold_cons, (crcStep_eq_zero h 0 0).mpr rfl, ih]

end

/-- `CHECKSUM` over a whole list that is not empty (rules R101, R104). -/
theorem checksum_whole (p : Params) {l : List Byte} {n : Nat} (hl : l.length = n) (hn : 0 < n) :
    checksum p (some l) 0 n = .ok (crcFold p p.crcInit l) := by
  rw [checksum_some, if_neg (by omega), List.drop_zero, List.take_of_length_le hl.le]

/-- Rule R105, for any `CRC_INIT`: the last byte is the checksum of those before it exactly when it clears the
accumulator. -/
theorem recordValid_iff_checksum_zero {p : Params} (h : p.crcTable = maximTable) {l : List Byte} {k : Nat} (hk : 0 < k)
    (hl : l.length = k + 1) : recordValid p l k = true ↔ checksum p (some l) 0 (k + 1) = .ok 0 := by
  have hlast : k < l.length := by omega
  have hsplit : l.take k ++ [l[k]] = l := by
    rw [List.take_concat_get', List.take_of_length_le hl.le]
  have hfold : crcFold p p.crcInit l = crcStep p (crcFold p p.crcInit (l.take k)) l[k] := by
    conv_lhs => rw [← hsplit, crcFold_append, crcFold_cons, crcFold_nil]
  rw [recordValid_eq p l k hk hlast, beq_iff_eq, checksum_whole p hl k.succ_pos, Except.ok.injEq, hfold,
    crcStep_eq_zero h]

/-- Settles O20: validity by the last step, the leading zero by the first, records of zero bytes by all of them. -/
theorem validRecordsChecksumToZero : Obligations.ValidRecordsChecksumToZero := by
  intro p h hinit
  have zeros (k : Nat) (hk : 0 < k) : checksum p (some (List.replicate k 0)) 0 k = .ok 0 := by
    rw [checksum_whole p List.length_replicate hk, hinit, crcFold_replicate_zero h]
  refine ⟨fun l k hk hl => recordValid_iff_checksum_zero h hk hl, fun l => ?_, fun k hk => ⟨zeros k hk, ?_⟩⟩
  · rw [crcFold_cons, hinit, (crcStep_eq_zero h 0 0).mpr rfl]
  · exact (recordValid_iff_checksum_zero h hk List.length_replicate).mpr (zeros (k + 1) k.succ_pos)

end Sys2Proof.Machine
end

section
/-! The bridge operations performed by themselves (41_bridge.md), whichever of their calls times out, and the tick
whose first channel reset finds no presence. -/

namespace Sys2Proof.Machine

/-! ### A command, and what it is answered

Every operation of the bridge begins with a command; `f` is the rest of the operation. -/

section
variable {α : Type} {bytes : List Byte} {b : Block} {ack st last : Byte} {busy : List Byte} {rest as : List Answer}

/-- A command whose write times out ends the operation (rule R111). -/
theorem command_timeout {f : Unit → Op α} : (sendCommand bytes >>= f) ⟨b, .timeout :: rest⟩
    = .error (.raised .transportTimeout)
      ⟨Block.idlePhases { b with history := b.history ++ [.busWrite bytes false] }, rest⟩ := rfl

/-- A command and the one status read that does not wait for busy (rule R123). -/
theorem sampled_reply {f : Byte → Op α} :
    (sendCommand bytes >>= fun _ => sampleStatus >>= f) ⟨b, .reply ack :: .reply st :: rest⟩
      = f st ⟨{ b with brPhase := .brPoll, lastStatus := some st,
                       history := b.history ++ [.busWrite bytes true, .busRead (some st)] }, rest⟩ := by
  rw [List.append_cons]; rfl

theorem sampled_timeout {f : Byte → Op α} :
    (sendCommand bytes >>= fun _ => sampleStatus >>= f) ⟨b, .reply ack :: .timeout :: rest⟩
      = .error (.raised .transportTimeout)
        ⟨Block.idlePhases { b with history := b.history ++ [.busWrite bytes true, .busRead none] }, rest⟩ := by
  rw [List.append_cons]; rfl

theorem heardAll_append : heardAll ack busy as ++ rest = heardAll ack busy (as ++ rest) := List.append_assoc ..

/-- A status says busy by its bit 0 (rule R72). -/
theorem all_stBusy (h : ∀ x ∈ busy, x.getLsbD 0 = true) : busy.all stBusy = true := by
  simpa [stBusy_eq] using h

/-- The registers once a command has been sent and the poll after it has read the statuses `ss` (rule R117). -/
def Block.polling (b : Block) (bytes ss : List Byte) : Block := { b with
  brPhase := .brPoll
  lastStatus := laterOf b.lastStatus ss.getLast?
  history := b.history ++ .busWrite bytes true :: ss.map readEvent }

theorem Block.polled_eq_polling (b : Block) (bytes ss : List Byte) :
    (((b.setBrPhase .brCommand).emit (.busWrite bytes true)).setBrPhase .brPoll).polled ss = b.polling bytes ss := by
  rw [Block.polled_eq, Block.polling, List.append_cons]; rfl

/-- A command that is answered goes on with its poll (rule R119). -/
theorem command_poll {f : Unit → Op α} :
    (sendCommand bytes >>= fun _ => waitNotBusy >>= f) ⟨b, heardAll ack busy as⟩
      = (poll >>= f) ⟨((b.setBrPhase .brCommand).emit (.busWrite bytes true)).setBrPhase .brPoll,
          busy.map .reply ++ as⟩ := rfl

/-- The status that ends the poll: what follows it is next. -/
theorem polled_reply {f : Unit → Op α} (hb : ∀ x ∈ busy, x.getLsbD 0 = true) (hl : last.getLsbD 0 = false) :
    (sendCommand bytes >>= fun _ => waitNotBusy >>= f) ⟨b, heardAll ack busy (.reply last :: rest)⟩
      = f () ⟨b.polling bytes (busy ++ [last]), rest⟩ := by
  rw [command_poll, Op.bind_ok (poll_good _ _ _ _ (all_stBusy hb) ((stBusy_eq last).trans hl)),
    Block.polled_eq_polling]

theorem polled_timeout {f : Unit → Op α} (hb : ∀ x ∈ busy, x.getLsbD 0 = true) :
    (sendCommand bytes >>= fun _ => waitNotBusy >>= f) ⟨b, heardAll ack busy (.timeout :: rest)⟩
      = .error (.raised .transportTimeout)
        ⟨((b.polling bytes busy).emit (.busRead none)).idlePhases, rest⟩ := by
  rw [command_poll, Op.bind_error (poll_timeout _ _ _ (all_stBusy hb)), Block.polled_eq_polling]

/-- While every status says busy the operation is not over, however many there are (rules R117, R252). -/
theorem polled_busy {f : Unit → Op α} (hb : ∀ x ∈ busy, x.getLsbD 0 = true) :
    (sendCommand bytes >>= fun _ => waitNotBusy >>= f) ⟨b, heardAll ack busy []⟩
      = .error .waiting ⟨b.polling bytes busy, []⟩ := by
  rw [command_poll, List.append_nil, Op.bind_error (poll_busy _ _ (all_stBusy hb)), Block.polled_eq_polling]

end

/-! ### Performing -/

section
variable {i : Instr} {reports : Bool} {op : Op (Option Value)} {s : State} {as : List Answer} {b : Block}

/-- An operation that still waits when the answers there are have been used. -/
theorem perform_waits (h : op ⟨s.block, as⟩ = .error .waiting ⟨b, []⟩) (ho : s.outside = as.map .answer) :
    perform i reports op s = .next { s with block := b, busy := some ⟨i, s.block, as⟩, outside := [] } := by
  simp only [perform, ho, takeAnswers_answers, h]

/-- An operation that raises, whether or not its result is handed back (rule R214). -/
theorem perform_raises_into_safeState {e : Err} {later : List Stimulus}
    (h : ∀ rest, op ⟨s.block, as ++ rest⟩ = .error (.raised e) ⟨b.idlePhases, rest⟩)
    (ho : s.outside = as.map .answer ++ later) :
    perform i reports op s = .next { s with
      block := b.idlePhases.safeState e, busy := none, outside := later,
      result := if reports then some ⟨e, none⟩ else s.result } := by
  simp only [perform, ho, takeAnswers_append, h, takeAnswers_join]

end

/-! ### The two resets (rules R113, R115) -/

/-- What the two resets have in common: a command, one status, and a test of it. -/
def testedReset (cmd : Byte) (test : Byte → Bool) (e : Err) : Op Unit := do
  sendCommand [cmd]
  let st ← sampleStatus
  require (test st) e
  bridgeDone

theorem brReset_eq : brReset = testedReset 0xF0 stDevReset .bridgeNotPresent := rfl

theorem brResetch_eq : brResetch = testedReset 0xB4 stPresence .noChannelPresence := rfl

section
variable {cmd ack st : Byte} {test : Byte → Bool} {e : Err} {b : Block} {rest : List Answer}

theorem testedReset_passed (h : test st = true) :
    testedReset cmd test e ⟨b, .reply ack :: .reply st :: rest⟩
      = .ok () ⟨{ b with brPhase := .brIdle, lastStatus := some st,
                         history := b.history ++ [.busWrite [cmd] true, .busRead (some st)] }, rest⟩ := by
  rw [testedReset, sampled_reply, h]; rfl

theorem testedReset_failed (h : test st = false) :
    testedReset cmd test e ⟨b, .reply ack :: .reply st :: rest⟩
      = .error (.raised e) ⟨Block.idlePhases { b with
          lastStatus := some st, history := b.history ++ [.busWrite [cmd] true, .busRead (some st)] }, rest⟩ := by
  rw [testedReset, sampled_reply, h]; rfl

end

/-- Settles O21: both commands are the tested reset, each with its own status bit. -/
theorem resetCommandsWhole : Obligations.ResetCommandsWhole := by
  refine ⟨fun _ => ⟨rfl, rfl⟩, ?_⟩
  rintro s ack st later i cmd bit e _ _ hi rfl rfl
  obtain ⟨test, htest, he⟩ : ∃ test : Byte → Bool, test st = st.getLsbD bit
      ∧ exec i s = perform i true (noResult (testedReset cmd test e)) s := by
    simp only [List.mem_cons, Prod.mk.injEq, List.not_mem_nil, or_false] at hi
    rcases hi with ⟨rfl, rfl, rfl, rfl⟩ | ⟨rfl, rfl, rfl, rfl⟩
    · exact ⟨stDevReset, stDevReset_eq st, rfl⟩
    · exact ⟨stPresence, stPresence_eq st, rfl⟩
  rw [he]
  simp only [List.append_assoc, List.singleton_append]
  refine ⟨fun ho hs => ?_, fun ho hs => ?_, fun ho => ?_, fun ho => ?_⟩
  · exact perform_returns (as := [.reply ack, .reply st])
      (fun _ => Op.bind_ok (testedReset_passed (htest.trans hs))) ho
  · exact perform_fails (as := [.reply ack, .reply st])
      (fun _ => Op.bind_error (testedReset_failed (htest.trans hs))) ho
  · exact perform_fails (as := [.timeout]) (fun _ => Op.bind_error command_timeout) ho
  · exact perform_fails (as := [.reply ack, .timeout]) (fun _ => Op.bind_error sampled_timeout) ho

/-! ### Configuration and single bit (rules R114, R118) -/

/-- The nibble-doubled byte, as rule R74 writes it. -/
theorem cfgByte_eq (bits : Nibble) : cfgByte bits = ((~~~bits).setWidth 8 <<< 4) ||| bits.setWidth 8 := by
  revert bits; decide

/-- Settles O22: `cfg_shadow` is written behind the one bus write, so a timeout does not reach it. -/
theorem writeConfigurationWhole : Obligations.WriteConfigurationWhole := by
  refine ⟨fun _ => rfl, ?_⟩
  rintro s bits ack later _ rfl
  rw [← cfgByte_eq]
  exact ⟨fun ho => perform_returns (as := [.reply ack]) (fun _ => rfl) ho,
    fun ho => perform_fails (as := [.timeout]) (fun _ => Op.bind_error command_timeout) ho⟩

theorem brReadbit_eq (p : Params) : brReadbit p = (sendCommand [0x87, p.bitTiming] >>= fun _ =>
    sampleStatus >>= fun st => bridgeDone >>= fun _ => pure (stSingleBit st)) := rfl

/-- Settles O23: the one status sampled after the command decides the bit. -/
theorem readBitWhole : Obligations.ReadBitWhole := by
  refine ⟨fun _ => rfl, ?_⟩
  rintro s ack st later _ rfl
  have he : exec .brReadbit s
      = perform .brReadbit true (brReadbit s.params >>= fun d => pure (some (.bit d))) s := rfl
  rw [he, brReadbit_eq, ← stSingleBit_eq]
  refine ⟨fun ho => ?_, fun ho => ?_, fun ho => ?_⟩
  · exact perform_returns (as := [.reply ack, .reply st]) (fun _ => Op.bind_ok sampled_reply) ho
  · exact perform_fails (as := [.timeout]) (fun _ => Op.bind_error command_timeout) ho
  · exact perform_fails (as := [.reply ack, .timeout]) (fun _ => Op.bind_error sampled_timeout) ho

/-! ### The operations that poll (rules R116, R117, R120) -/

theorem brWritebyte_eq (d : Byte) : brWritebyte d
    = (sendCommand [0xA5, d] >>= fun _ => waitNotBusy >>= fun _ => bridgeDone) := rfl

/-- What `BR_READBYTE` does after its poll: it sets the read pointer and fetches one byte (rule R120). -/
def fetchData (p : Params) : Op Byte := do
  update (·.setBrPhase .brPointer)
  busWrite [Wire.setReadPointer, p.ptrData]
  update (·.setBrPhase .brFetch)
  let d ← busRead
  bridgeDone
  pure d

theorem brReadbyte_eq (p : Params) : brReadbyte p
    = (sendCommand [0x96] >>= fun _ => waitNotBusy >>= fun _ => fetchData p) := rfl

section
variable {p : Params} {b : Block} {ack d : Byte} {rest : List Answer}

theorem fetchData_reply : fetchData p ⟨b, .reply ack :: .reply d :: rest⟩
    = .ok d ⟨{ b with brPhase := .brIdle,
                      history := b.history ++ [.busWrite [0xE1, p.ptrData] true, .busRead (some d)] }, rest⟩ := by
  rw [List.append_cons]; rfl

theorem fetchData_pointer_timeout : fetchData p ⟨b, .timeout :: rest⟩
    = .error (.raised .transportTimeout)
      ⟨Block.idlePhases { b with history := b.history ++ [.busWrite [0xE1, p.ptrData] false] }, rest⟩ := rfl

theorem fetchData_timeout : fetchData p ⟨b, .reply ack :: .timeout :: rest⟩
    = .error (.raised .transportTimeout)
      ⟨Block.idlePhases { b with history := b.history ++ [.busWrite [0xE1, p.ptrData] true, .busRead none] }, rest⟩ := by
  rw [List.append_cons]; rfl

end

/-- The status that ends a poll is the one `last_status` keeps (rule R117). -/
theorem Block.polling_concat (b : Block) (bytes busy : List Byte) (last : Byte) :
    b.polling bytes (busy ++ [last]) = { b with
      brPhase := .brPoll, lastStatus := some last,
      history := b.history ++ .busWrite bytes true :: (busy ++ [last]).map readEvent } := by
  simp [Block.polling, laterOf]

/-- Settles O24: the write and the poll, in each of the three ways they can end. -/
theorem writeByteWhole : Obligations.WriteByteWhole := by
  refine ⟨fun _ => rfl, ?_⟩
  rintro s d ack last busy later _ hb rfl
  have he : exec (.brWritebyte d) s = perform (.brWritebyte d) true (noResult (brWritebyte d)) s := rfl
  refine ⟨fun hl ho => sendAlone_good hb hl ho, fun ho => ?_, fun ho => ?_⟩ <;> rw [he, brWritebyte_eq]
  · refine perform_fails (fun rest => Op.bind_error ?_) ho
    rw [heardAll_append]
    exact polled_timeout hb
  · exact perform_fails (as := [.timeout]) (fun _ => Op.bind_error command_timeout) ho

/-- Settles O25: the write and the poll as in `BR_WRITEBYTE`, then the pointer and the fetch, which raise or return on
their own. -/
theorem readByteWhole : Obligations.ReadByteWhole := by
  refine ⟨fun _ => rfl, ?_⟩
  rintro s ack last ack2 d busy later _ _ hb hl rfl rfl
  have he : exec .brReadbyte s
      = perform .brReadbyte true (brReadbyte s.params >>= fun d => pure (some (.byte d))) s := rfl
  have polled (as rest : List Answer) : brReadbyte s.params ⟨s.block, heardAll ack busy (.reply last :: as) ++ rest⟩
      = fetchData s.params ⟨s.block.polling [0x96] (busy ++ [last]), as ++ rest⟩ := by
    rw [brReadbyte_eq, heardAll_append, List.cons_append, polled_reply hb hl]
  rw [he]
  simp only [Block.polling_concat] at polled
  refine ⟨fun ho => ?_, fun ho => ?_, fun ho => ?_, fun ho => ?_, fun ho => ?_⟩
  · exact perform_returns (fun rest => Op.bind_ok ((polled _ rest).trans fetchData_reply)) ho
  · exact perform_fails (fun rest => Op.bind_error ((polled _ rest).trans fetchData_pointer_timeout)) ho
  · exact perform_fails (fun rest => Op.bind_error ((polled _ rest).trans fetchData_timeout)) ho
  · refine perform_fails (fun rest => Op.bind_error ?_) ho
    rw [brReadbyte_eq, heardAll_append]
    exact polled_timeout hb
  · exact perform_fails (as := [.timeout]) (fun _ => Op.bind_error command_timeout) ho

/-- Settles O26: both operations are a command and its poll, which has used all answers and waits. -/
theorem busyPollNeverEndsWhileBusy : Obligations.BusyPollNeverEndsWhileBusy := by
  intro s d ack busy i bytes hi hb ho
  simp only [List.mem_cons, Prod.mk.injEq, List.not_mem_nil, or_false] at hi
  rcases hi with ⟨rfl, rfl⟩ | ⟨rfl, rfl⟩
  · exact perform_waits (op := noResult (brWritebyte d)) (Op.bind_error (polled_busy hb)) ho
  · exact perform_waits (op := brReadbyte s.params >>= fun d => pure (some (.byte d)))
      (Op.bind_error (polled_busy hb)) ho

/-! ### The tick that finds no presence (rules R115, R202, R222) -/

theorem brResetch_absent {ack st : Byte} (h : st.getLsbD 1 = false) (b : Block) (rest : List Answer) :
    brResetch ⟨b, .reply ack :: .reply st :: rest⟩
      = .error (.raised .noChannelPresence) ⟨Block.idlePhases { b with
          lastStatus := some st, history := b.history ++ [.busWrite [0xB4] true, .busRead (some st)] }, rest⟩ := by
  rw [brResetch_eq]
  exact testedReset_failed ((stPresence_eq st).trans h)

/-- An error of a tick's first channel reset is the error of the tick. -/
theorem tickBody_of_brResetch {p : Params} {b b' : Block} {as rest : List Answer} {e : Err}
    (h : brResetch ⟨b.setSnPhase .busReset, as⟩ = .error (.raised e) ⟨b', rest⟩) :
    tickBody p ⟨b, as⟩ = .error (.raised e) ⟨b', rest⟩ := by
  have trigger : triggerConversion p ⟨b, as⟩ = .error (.raised e) ⟨b', rest⟩ :=
    (Op.bind_ok (update_apply _ _)).trans (Op.bind_error h)
  have measure : snMeasure p ⟨b, as⟩ = .error (.raised e) ⟨b', rest⟩ := Op.bind_error trigger
  exact Op.bind_error measure

/-- The history of the safe state, a change of `drive` where there is one (rules R69, R222). -/
theorem Block.safeState_history_append (b : Block) (e : Err) : (b.safeState e).history
    = b.history ++ (if b.drive = .off then [] else [.drive .off]) ++ [.notify (.fatalError e)] := by
  rw [Block.safeState_history, Block.putDrive_history]
  split
  · rw [List.append_nil]
  · rfl

/-- Settles O53: the channel reset raises before anything else of the tick, and the safe state has both outputs off. -/
theorem noPresenceTurnsBothActuatorsOff : Obligations.NoPresenceTurnsBothActuatorsOff := by
  intro s ack st later ht hst ho
  have he : exec .orchTick s = perform .orchTick false (noResult (tickBody s.params)) s := if_pos ht
  refine ⟨_, he.trans (perform_raises_into_safeState (as := [.reply ack, .reply st])
    (fun rest => Op.bind_error (tickBody_of_brResetch (brResetch_absent hst _ rest))) ho), ?_⟩
  exact ⟨rfl, rfl, rfl, rfl, rfl, Block.safeState_history_append _ _⟩

end Sys2Proof.Machine
end

section
/-! How `SN_INIT` and `SN_MEASURE` can end, and what an operation that waits has written (rules R140, R141, R149, R197,
R221, R222). -/

namespace Sys2Proof.Machine

variable {s t : State} {b b' : Block}

/-- The commit of `SN_INIT` on registers of which only the bus registers differ (rule R140). -/
theorem Block.Onward.commitInit_eq (h : b.Onward b') (rom : Vector Byte 8) (par : Bool) (res : ResCode) :
    b'.commitInit rom par res = { b.withBusOf (b'.commitInit rom par res) with
      rom := some rom, parasitic := some par, resolution := some res, initialized := true } := by
  rw [h.others]; rfl

/-- The safe state of registers of which only the bus registers differ (rule R222). -/
theorem Block.Onward.safeState_eq (h : b.Onward b') (e : Err) :
    b'.safeState e = { b.withBusOf (b'.safeState e) with drive := .off, ticking := false, error := e } := by
  rw [h.others]; rfl

theorem exec_snInit_halted (res : ResCode) (h : s.block.ticking = false) :
    exec (.snInit res) s = perform (.snInit res) true (noResult (snInit s.params res)) s := by
  simp only [exec, execSnInit, h, Bool.false_eq_true, if_false]

/-- Settles O32: the initialisation has returned with its commit, or raised with only the bus registers written. -/
theorem sensorInitialisationCommitsAllOrNothing : Obligations.SensorInitialisationCommitsAllOrNothing := by
  intro s t res ht h hb
  rw [exec_snInit_halted res ht] at h
  rcases perform_next (ends_noResult (ends_snInit s.params res s.block)) h with
    ⟨v, b', later, ⟨rfl, b₀, rom, par, ho, -, -, hv, rfl⟩, rfl⟩ | ⟨e, b', later, ⟨ho, he, -⟩, rfl⟩ | ⟨b', -, rfl⟩
  · exact .inl ⟨rfl, rfl, rfl, rom, par, rfl, rfl, hv, ho.commitInit_eq rom par res⟩
  · exact .inr ⟨e, (he e rfl).1, rfl, ho.safeState_eq e⟩
  · cases hb

/-- Settles O35: the measurement has returned its reading, or raised, with only the bus registers written. -/
theorem measurementErrors : Obligations.MeasurementErrors := by
  intro s t h hb
  have ends : Op.Ends (snMeasure s.params >>= fun v => pure (some (Value.temp v))) s.block
      (fun r b' => (∃ v, r = some (.temp v)) ∧ s.block.Onward b')
      (fun h b' => s.block.Onward b'
        ∧ ∀ e, h = .raised e → e ∈ [Err.transportTimeout, .noChannelPresence, .measurementFailed]) :=
    Op.ends_bind ((ends_snMeasure s.params s.block).imp (fun v _ ⟨ho, _, _⟩ => Op.ends_pure ⟨⟨v, rfl⟩, ho⟩)
      fun _ _ ⟨ho, he, _⟩ => ⟨ho, fun e h => (he e h).1⟩)
  rcases perform_next ends h with
    ⟨r, b', later, ⟨⟨v, rfl⟩, ho⟩, rfl⟩ | ⟨e, b', later, ⟨ho, he⟩, rfl⟩ | ⟨b', -, rfl⟩
  · exact .inl ⟨ho.others, v, rfl⟩
  · exact .inr ⟨e, he e rfl, rfl, ho.safeState_eq e⟩
  · cases hb

/-- Settles O59: of the ways an instruction can go on, only the one that waits leaves it in progress. -/
theorem waitingOperationHasDecidedNothing : Obligations.WaitingOperationHasDecidedNothing := by
  intro i s t hf h hb
  rcases exec_next h with ⟨_, _, _, -, rfl⟩ | ⟨_, _, _, _, -, rfl⟩ | ⟨b', ho, -, -, rfl⟩ | ⟨-, rfl⟩
  · exact absurd rfl hb
  · exact absurd rfl hb
  · exact ho.others
  · exact absurd hf hb

end Sys2Proof.Machine
end

section
/-! What an operation comes to on a conversation, whether or not it returns: `Op.Reaches`, with the rules that chain it.
With it, the whole of `SN_INIT` (rules R131 to R140). -/

namespace Sys2Proof.Machine

variable {α β : Type} {x y z : Op α} {b b₁ b₂ : Block} {xs ys : List Exchange} {cs : List Call}

/-! ### Coming to the rest of an operation -/

/-- On the answers of the exchanges `xs`, operation `x` begun at registers `b` comes to operation `y` at registers `b'`,
which goes on with what follows them. -/
def Op.Reaches (x : Op α) (b : Block) (xs : List Exchange) (y : Op α) (b' : Block) : Prop :=
  ∀ rest, x ⟨b, xs.flatMap Exchange.answers ++ rest⟩ = y ⟨b', rest⟩

theorem Op.Reaches.refl (x : Op α) (b : Block) : x.Reaches b [] x b := fun _ => rfl

theorem Op.Reaches.trans (h : x.Reaches b xs y b₁) (h' : y.Reaches b₁ ys z b₂) : x.Reaches b (xs ++ ys) z b₂ := by
  intro rest
  rw [List.flatMap_append, List.append_assoc, h]
  exact h' rest

/-- An operation that returns comes to what is done with its result. -/
theorem Op.Hears.reaches {x : Op β} {a : β} (h : x.Hears b xs a b₁) (f : β → Op α) :
    (x >>= f).Reaches b xs (f a) b₁ := fun rest => Op.bind_ok (h rest)

theorem Op.Reaches.bind (h : x.Reaches b xs y b₁) (f : α → Op β) : (x >>= f).Reaches b xs (y >>= f) b₁ := by
  intro rest
  rw [Op.bind_apply, Op.bind_apply, h]

/-- What raises ends the operation it is a part of. -/
theorem Op.Reaches.bind_raise {e : Err} {f : α → Op β} (h : x.Reaches b xs (raise e) b₁) :
    (x >>= f).Reaches b xs (raise e) b₁ := h.bind f

/-- A statement that hears nothing before an operation that does. -/
theorem Op.Reaches.after_update {f : Block → Block} (h : x.Reaches (f b) xs y b₁) :
    (update f >>= fun _ => x).Reaches b xs y b₁ := fun rest => h rest

theorem Op.hears_update (f : Block → Block) (b : Block) : (update f).Hears b [] () (f b) := fun _ => rfl

/-! ### The data of a conversation -/

/-- A conversation that serves no fetch has no data byte. -/
theorem Serves.data_eq_nil (h : Serves xs cs) (hf : Call.fetch ∉ cs) : xs.filterMap Exchange.data = [] :=
  List.filterMap_eq_nil_iff.mpr fun _ hx => data_of_not_fetch fun hc => hf (h.1 ▸ hc ▸ List.mem_map_of_mem hx)

/-- A conversation that serves no single-bit read has no bit. -/
theorem Serves.bit_eq_nil (h : Serves xs cs) (hf : Call.singleBit ∉ cs) : xs.filterMap Exchange.bit = [] :=
  List.filterMap_eq_nil_iff.mpr fun _ hx => bit_of_not_singleBit fun hc => hf (h.1 ▸ hc ▸ List.mem_map_of_mem hx)

theorem singleBit_notMem_readRomCalls : Call.singleBit ∉ readRomCalls := by decide

theorem fetch_notMem_probePowerCalls : Call.fetch ∉ probePowerCalls := by decide

theorem notMem_writeResolutionCalls (res : ResCode) :
    Call.fetch ∉ writeResolutionCalls res ∧ Call.singleBit ∉ writeResolutionCalls res := by
  simp [writeResolutionCalls]

theorem notMem_copyToEepromCalls (p : Params) (par : Bool) :
    Call.fetch ∉ copyToEepromCalls p par ∧ Call.singleBit ∉ copyToEepromCalls p par := by
  cases par <;> simp [copyToEepromCalls, strongPullupCalls]

/-! ### Initialisation -/

variable {p : Params} {res : ResCode} {par : Bool} {rom : Vector Byte 8}

/-- The five steps of `SN_INIT` on a conversation that goes well, and the commit (rules R131, R140). -/
theorem hears_snInit (b : Block) (h : Serves xs (snInitCalls p res par)) (hd : xs.filterMap Exchange.data = rom.toList)
    (hb : xs.filterMap Exchange.bit = [!par]) (hv : recordValid p rom.toList 7 = true) :
    (snInit p res).Hears b xs () ((b.spoke p xs).commitInit rom par res) := by
  unfold snInitCalls at h
  simp only [List.append_assoc] at h
  obtain ⟨us, _, rfl, hu, h⟩ := Serves.split h
  obtain ⟨rs, _, rfl, hr, h⟩ := Serves.split h
  obtain ⟨ps, _, rfl, hp, h⟩ := Serves.split h
  obtain ⟨ws, es, rfl, hw, he⟩ := Serves.split h
  have hdata : rs.filterMap Exchange.data = rom.toList := by
    simpa only [List.filterMap_append, hu.data_eq_nil (by decide), hp.data_eq_nil fetch_notMem_probePowerCalls,
      hw.data_eq_nil (notMem_writeResolutionCalls res).1, he.data_eq_nil (notMem_copyToEepromCalls p par).1,
      List.append_nil, List.nil_append] using hd
  have hbit : ps.filterMap Exchange.bit = [!par] := by
    simpa only [List.filterMap_append, hu.bit_eq_nil (by decide), hr.bit_eq_nil singleBit_notMem_readRomCalls,
      hw.bit_eq_nil (notMem_writeResolutionCalls res).2, he.bit_eq_nil (notMem_copyToEepromCalls p par).2,
      List.append_nil, List.nil_append] using hb
  obtain ⟨u, _, rfl, hc, hg, hn⟩ := hu.cons
  obtain rfl := hn.nil
  have t : (snInit p res).Hears b ([u] ++ (rs ++ (ps ++ (ws ++ (es ++ []))))) ()
      ((b.spoke p ([u] ++ rs ++ ps ++ ws ++ es)).commitInit rom par res) :=
    (hears_brReset p b hc hg).bind <| Op.Hears.bind (talks_readRom hr hdata hv) <|
      Op.Hears.bind (talks_probePower hp hbit) <| Op.Hears.bind (talks_writeResolution hw) <|
        Op.Hears.bind (talks_copyToEeprom he) <| Op.hears_update _ _
  simpa only [List.append_assoc, List.append_nil] using t

/-- Settles O30: performing the initialisation on its conversation returns at the committed registers. -/
theorem sensorInitialisationSucceeds : Obligations.SensorInitialisationSucceeds := by
  intro s res par rom xs later ht h hd hb hv ho
  rw [exec_snInit_halted res ht]
  have t := (hears_snInit s.block h hd hb hv).bind (f := fun _ => pure none) (Op.hears_pure (none : Option Value) _)
  rw [List.append_nil] at t
  exact perform_hears t ho

/-- A ROM code with a wrong checksum is read once, and then raises (rule R136). -/
theorem readRom_reaches_raise {ws : List Exchange} (h : Serves xs readRomCalls)
    (hd : xs.filterMap Exchange.data = rom.toList) (hv : recordValid p rom.toList 7 = false) :
    (readRom p).Reaches (b.spoke p ws) xs (raise .romChecksumInvalid) (b.spoke p (ws ++ xs)) := by
  have t := Op.Hears.reaches (talks_romBytes h hd : Op.Talks p b ws _ _ _)
    fun r => do require (recordValid p r.toList 7) .romChecksumInvalid; pure r
  intro rest
  have e := t rest
  rw [hv] at e
  simp only [bind_assoc] at e
  exact e

/-- Settles O31: the device reset and the one ROM read go well, and the checksum test raises. -/
theorem invalidRomEndsInitialisation : Obligations.InvalidRomEndsInitialisation := by
  intro s res rom xs later ht h hd hv ho
  rw [exec_snInit_halted res ht]
  obtain ⟨u, rs, rfl, hc, hg, hr⟩ := Serves.cons h
  rw [List.filterMap_cons_none (data_of_not_fetch (by rw [hc]; exact nofun))] at hd
  have t : (snInit s.params res).Reaches s.block ([u] ++ rs) (raise .romChecksumInvalid)
      (s.block.spoke s.params ([u] ++ rs)) :=
    .trans ((hears_brReset s.params s.block hc hg).reaches _) (readRom_reaches_raise hr hd hv).bind_raise
  exact perform_raises t.bind_raise ho

end Sys2Proof.Machine
end

section
/-! The measurement on a conversation (rules R142 to R148): the trigger, the re-reads, and each way it can go on. -/

namespace Sys2Proof.Machine

variable {p : Params} {b : Block} {xs ys ws : List Exchange} {res : ResCode} {par : Bool} {sp : Vector Byte 9}

/-! ### The retry loop -/

/-- The retry loop when `attempts` reads have been made, with room for every answer there is. -/
def scratchpadsFrom (p : Params) (attempts : Nat) : Op (Vector Byte 9) := fun c =>
  scratchpadLoop p (c.answers.length + 1) attempts c

/-- What the loop does with the scratchpad `v`: it keeps a valid one, and reads again after an invalid one. -/
def judgeScratchpad (p : Params) (attempts : Nat) (v : Vector Byte 9) : Op (Vector Byte 9) :=
  if recordValid p v.toList 8 then do
    update (·.setSnPhase .checksumValid)
    pure v
  else do
    update (·.setSnPhase .checksumInvalid)
    scratchpadsFrom p (attempts + 1)

/-- The loop of rules R146 and R147 as the pseudocode writes it, without the bound on its recursion. -/
theorem scratchpadsFrom_unroll (p : Params) (attempts : Nat) : scratchpadsFrom p attempts = (do
    require (decide (p.retryLimit ≠ some attempts)) .measurementFailed
    let v ← readScratchpad p
    judgeScratchpad p attempts v) := by
  funext c
  unfold scratchpadsFrom
  rw [scratchpadLoop]
  cases decide (p.retryLimit ≠ some attempts) with
  | false => rfl
  | true =>
    rw [Op.bind_ok (require_true _ c), Op.bind_ok (require_true _ c)]
    cases hr : readScratchpad p c with
    | error h c' => rw [Op.bind_error hr, Op.bind_error hr]
    | ok v c' =>
      have hu := readScratchpad_uses hr
      rw [Op.bind_ok hr, Op.bind_ok hr]
      unfold judgeScratchpad
      cases recordValid p v.toList 8 with
      | true => rfl
      | false => exact scratchpadLoop_fuel p hu (Nat.lt_succ_self _)

/-- With the limit reached no further read is begun (rule R147). -/
theorem scratchpadsFrom_limit {attempts : Nat} (h : p.retryLimit = some attempts) (b : Block) :
    (scratchpadsFrom p attempts).Reaches b [] (raise .measurementFailed) b := by
  intro rest
  rw [scratchpadsFrom_unroll, h, decide_eq_false (fun h => h rfl)]
  rfl

/-- Below the limit a further scratchpad is read, and its checksum decides (rule R146). -/
theorem scratchpadsFrom_reads {attempts : Nat} (hl : p.retryLimit ≠ some attempts) (h : Serves xs readScratchpadCalls)
    (hd : xs.filterMap Exchange.data = sp.toList) (b : Block) : (scratchpadsFrom p attempts).Reaches (b.spoke p ws) xs
      (judgeScratchpad p attempts sp) (((b.spoke p (ws ++ xs)).setSnPhase .scratchpadRead).setSp sp) := by
  rw [scratchpadsFrom_unroll, decide_eq_true hl]
  exact (hears_readScratchpad p b ws h hd).reaches _

/-- Below the limit the loop waits for the answer to its next channel reset. -/
theorem scratchpadsFrom_silent {attempts : Nat} (hl : p.retryLimit ≠ some attempts) (b : Block) :
    scratchpadsFrom p attempts ⟨b, []⟩
      = .error .waiting ⟨(b.setSnPhase .scratchpadRead).setBrPhase .brCommand, []⟩ := by
  rw [scratchpadsFrom_unroll, decide_eq_true hl]
  rfl

/-- A scratchpad read on the conversation that is first of the pair gives the bytes that are its second, and they
fail their checksum. -/
abbrev ReadsInvalid (p : Params) (y : List Exchange × Vector Byte 9) : Prop :=
  Serves y.1 readScratchpadCalls ∧ y.1.filterMap Exchange.data = y.2.toList ∧ recordValid p y.2.toList 8 = false

/-- The registers the sensor driver leaves after reading the invalid scratchpads `bad`, but for the bus. -/
def Block.reread (b : Block) (bad : List (List Exchange × Vector Byte 9)) : Block :=
  bad.foldl (fun b y => (b.setSp y.2).setSnPhase .checksumInvalid) b

/-- Of the scratchpads read the last is kept (rule R145); the phase is only known until the next one. -/
theorem Block.reread_setSnPhase (b : Block) (bad : List (List Exchange × Vector Byte 9)) (ph : SnPhase) :
    (b.reread bad).setSnPhase ph = { b with snPhase := ph, sp := laterOf b.sp (bad.map Prod.snd).getLast? } := by
  induction bad generalizing b with
  | nil => rfl
  | cons y bad ih =>
    rw [Block.reread, List.foldl_cons, ← Block.reread, ih]
    cases bad with
    | nil => rfl
    | cons z bad => simp [laterOf, List.getLast?_cons, Block.setSp, Block.setSnPhase]

/-- With both sequencers idle, only the last of the scratchpads tells what has been read. -/
theorem Block.reread_idlePhases (b : Block) {bad : List (List Exchange × Vector Byte 9)}
    (h : (bad.map Prod.snd).getLast? = some sp) : ((b.reread bad).spoke p xs).idlePhases
      = Block.idlePhases { b.conversed p xs with sp := some sp } := by
  have e := b.reread_setSnPhase bad .idle
  rw [h] at e
  exact congrArg (fun b => (b.spoke p xs).idlePhases) e

/-- Every invalid scratchpad is read again, while the limit is not passed (rules R146, R147). -/
theorem scratchpadsFrom_reread {bad : List (List Exchange × Vector Byte 9)} (hbad : ∀ y ∈ bad, ReadsInvalid p y)
    (attempts : Nat) (hl : ∀ n, p.retryLimit = some n → attempts + bad.length ≤ n) (b : Block) (ws : List Exchange) :
    (scratchpadsFrom p attempts).Reaches (b.spoke p ws) (bad.flatMap Prod.fst)
      (scratchpadsFrom p (attempts + bad.length)) ((b.reread bad).spoke p (ws ++ bad.flatMap Prod.fst)) := by
  induction bad generalizing attempts b ws with
  | nil =>
    rw [List.flatMap_nil, List.append_nil]
    exact .refl _ _
  | cons y bad ih =>
    rw [List.length_cons] at hl
    obtain ⟨hs, hd, hv⟩ := hbad y List.mem_cons_self
    have hne : p.retryLimit ≠ some attempts := fun h => absurd (hl _ h) (by omega)
    have first := scratchpadsFrom_reads (ws := ws) hne hs hd b
    rw [judgeScratchpad, hv] at first
    have rest := ih (fun z hz => hbad z (List.mem_cons_of_mem y hz)) (attempts + 1)
      (fun n h => by have := hl n h; omega) ((b.setSp y.2).setSnPhase .checksumInvalid) (ws ++ y.1)
    have all := first.trans rest.after_update
    rwa [List.append_assoc, Nat.add_assoc, Nat.add_comm 1] at all

/-! ### The trigger and the conversion wait -/

/-- What `SN_MEASURE` does once the conversion has been waited for (rules R142, R148). -/
def readTemperature (p : Params) (res : ResCode) (attempts : Nat) : Op Temp := do
  let sp ← scratchpadsFrom p attempts
  update (·.setSnPhase .decoded)
  update (·.setSnPhase .idle)
  pure (decodeTemp p sp[0] sp[1] res)

theorem snMeasure_eq (p : Params) : snMeasure p = (do
    triggerConversion p
    let b ← look
    let res ← present .resolution b.resolution
    conversionWait res
    readTemperature p res 0) := rfl

/-- What the trigger does from its read of `parasitic` on (rule R143). -/
def powerAndConvert (p : Params) : Op Unit := do
  let b ← look
  let parasitic ← present .parasitic b.parasitic
  strongPullup p parasitic
  update (·.setSnPhase .convertTriggered)
  brWritebyte Wire.convert

/-- The trigger up to the read of `parasitic` (rule R143). -/
theorem triggerConversion_reaches (b : Block) (h : Serves xs [.channelReset, .send 0xCC]) :
    (triggerConversion p).Reaches b xs (powerAndConvert p) ((b.spoke p xs).setSnPhase .broadcast) := by
  obtain ⟨u, _, rfl, hu, gu, h⟩ := h.cons
  obtain ⟨v, _, rfl, hv, gv, h⟩ := h.cons
  obtain rfl := h.nil
  have broadcast := (hears_brWritebyte p (((b.setSnPhase .busReset).spoke p [u]).setSnPhase .broadcast) hv gv).reaches
    fun _ => powerAndConvert p
  have e : (((b.setSnPhase .busReset).spoke p [u]).setSnPhase .broadcast).spoke p [v]
      = (b.spoke p [u, v]).setSnPhase .broadcast := by
    rw [← Block.spoke_setSnPhase, Block.spoke_spoke]; rfl
  rw [e] at broadcast
  exact (((hears_brResetch p (b.setSnPhase .busReset) hu gu).reaches _).trans broadcast.after_update).after_update

theorem triggerCalls_eq (p : Params) (par : Bool) (res : ResCode) : triggerCalls p par res
    = [.channelReset, .send 0xCC] ++ strongPullupCalls p par ++ [.send 0x44] ++ [.wait (tConvMs res)] := by
  simp [triggerCalls]

/-- The conversion is triggered and waited for once; then the scratchpad is read (rules R142 to R144). -/
theorem snMeasure_reaches_read (hp : b.parasitic = some par) (hr : b.resolution = some res)
    (h : Serves xs (triggerCalls p par res)) :
    (snMeasure p).Reaches b xs (readTemperature p res 0) ((b.setSnPhase .converting).spoke p xs) := by
  rw [snMeasure_eq]
  rw [triggerCalls_eq] at h
  obtain ⟨us, _, rfl, hu, h⟩ := Serves.split h
  obtain ⟨w, _, rfl, hw, -, h⟩ := h.cons
  obtain rfl := h.nil
  have wait := hears_delay p (((b.spoke p us).setSnPhase .convertTriggered).setSnPhase .converting) hw rfl
  have e : (((b.spoke p us).setSnPhase .convertTriggered).setSnPhase .converting).spoke p [w]
      = (b.setSnPhase .converting).spoke p (us ++ [w]) := by
    rw [← Block.spoke_spoke]; rfl
  rw [e] at wait
  have waited := (wait.after_update (f := (·.setSnPhase .converting))).reaches fun _ => readTemperature p res 0
  refine Op.Reaches.trans ((hears_triggerConversion p b hp hu).reaches _) fun rest => ?_
  rw [Op.bind_ok (look_apply _), show ((b.spoke p us).setSnPhase .convertTriggered).resolution = some res from hr,
    Op.bind_ok (present_some _ _ _)]
  exact waited rest

/-- The measurement after the invalid scratchpads `bad` (rules R142 to R147). -/
theorem snMeasure_reaches_reread {bad : List (List Exchange × Vector Byte 9)} (hp : b.parasitic = some par)
    (hr : b.resolution = some res) (h : Serves xs (triggerCalls p par res)) (hbad : ∀ y ∈ bad, ReadsInvalid p y)
    (hl : ∀ n, p.retryLimit = some n → bad.length ≤ n) :
    (snMeasure p).Reaches b (xs ++ bad.flatMap Prod.fst) (readTemperature p res bad.length)
      (((b.setSnPhase .converting).reread bad).spoke p (xs ++ bad.flatMap Prod.fst)) := by
  have again := scratchpadsFrom_reread hbad 0 (by simpa using hl) (b.setSnPhase .converting) xs
  rw [Nat.zero_add] at again
  exact (snMeasure_reaches_read hp hr h).trans (again.bind _)

/-! ### Each way it can go on -/

/-- A valid scratchpad is decoded, and its temperature is the result (rules R146, R148). -/
theorem readTemperature_hears {attempts : Nat} (hl : p.retryLimit ≠ some attempts) (h : Serves ys readScratchpadCalls)
    (hd : ys.filterMap Exchange.data = sp.toList) (hv : recordValid p sp.toList 8 = true) (b : Block) :
    (readTemperature p res attempts).Hears (b.spoke p ws) ys (decodeTemp p sp[0] sp[1] res)
      (((b.setSnPhase .idle).spoke p (ws ++ ys)).setSp sp) := by
  have read := scratchpadsFrom_reads (ws := ws) hl h hd b
  rw [judgeScratchpad, hv] at read
  exact read.bind _

/-- Settles O33: the trigger, the invalid scratchpads, then the valid one and its decode. -/
theorem measurementSucceeds : Obligations.MeasurementSucceeds := by
  rintro s res par xs bad ys sp later _ hp hr h hbad hl hy hd hv rfl ho
  have reading := readTemperature_hears (res := res) (ws := xs ++ bad.flatMap Prod.fst)
    (fun h => lt_irrefl _ (hl _ h)) hy hd hv ((s.block.setSnPhase .converting).reread bad)
  have measured := (snMeasure_reaches_reread hp hr h hbad fun n h => (hl n h).le).trans reading
  rw [Block.reread_setSnPhase] at measured
  exact perform_returns (fun rest => Op.bind_ok (measured rest)) ho

/-- With the limit reached the measurement fails (rule R147). -/
theorem readTemperature_limit {attempts : Nat} (h : p.retryLimit = some attempts) (b : Block) :
    (readTemperature p res attempts).Reaches b [] (raise .measurementFailed) b := (scratchpadsFrom_limit h b).bind_raise

/-- Below the limit the measurement, having used up its answers, waits to read a scratchpad (rules R147, R253). -/
theorem readTemperature_silent {attempts : Nat} (hl : p.retryLimit ≠ some attempts) (b : Block) :
    readTemperature p res attempts ⟨b, []⟩
      = .error .waiting ⟨(b.setSnPhase .scratchpadRead).setBrPhase .brCommand, []⟩ :=
  Op.bind_error (scratchpadsFrom_silent hl b)

/-- What a failed operation leaves does not depend on the phases at which it raised (rules R119, R148). -/
theorem State.failed_congr {s : State} {b b' : Block} {later : List Stimulus} {e : Err}
    (h : b.idlePhases = b'.idlePhases) : s.failed b later e = s.failed b' later e := by
  rw [State.failed, State.failed, h]

/-- Settles O34: at the limit the loop raises before it reads; below it the channel reset of the next read waits. -/
theorem measurementFailsAtTheRetryLimit : Obligations.MeasurementFailsAtTheRetryLimit := by
  rintro s res par xs bad _ hp hr h hbad rfl
  refine ⟨fun sp later hlim hsp ho => ?_, fun i hi hl ho => ?_⟩
  · have failed := (snMeasure_reaches_reread hp hr h hbad fun n hn =>
      (Option.some.inj (hlim.symm.trans hn)).le).trans (readTemperature_limit hlim _)
    rw [List.append_nil] at failed
    exact (perform_raises failed.bind_raise ho).trans
      (congrArg _ (State.failed_congr (Block.reread_idlePhases _ hsp)))
  · have silent := readTemperature_silent (res := res) (fun h => lt_irrefl _ (hl _ h))
      (((s.block.setSnPhase .converting).reread bad).spoke s.params (xs ++ bad.flatMap Prod.fst))
    have waits := (snMeasure_reaches_reread hp hr h hbad (fun n h => (hl n h).le) []).trans silent
    rw [← Block.spoke_setSnPhase, Block.reread_setSnPhase, List.append_nil] at waits
    rcases hi with rfl | ⟨rfl, ht⟩
    · exact perform_waits (Op.bind_error waits) (ho.trans (List.append_nil _))
    · have he : exec .orchTick s = perform .orchTick false (noResult (tickBody s.params)) s := if_pos ht
      exact he.trans (perform_waits (Op.bind_error (Op.bind_error waits)) (ho.trans (List.append_nil _)))

/-! ### A sensor that was never initialised -/

/-- An operation that reads a register that holds no value stops the machine. -/
theorem perform_stops {i : Instr} {reports : Bool} {op : Op (Option Value)} {s : State} {as : List Answer} {f : Fault}
    {c : List Answer → Ctx} {later : List Stimulus}
    (h : ∀ rest, op ⟨s.block, as ++ rest⟩ = .error (.stopped f) (c rest))
    (ho : s.outside = as.map .answer ++ later) : perform i reports op s = .fault f := by
  simp only [perform, ho, takeAnswers_append, h]

/-- The trigger reads `parasitic` after the skip-ROM byte (rule R143). -/
theorem triggerConversion_stops (hp : b.parasitic = none) (h : Serves xs [.channelReset, .send 0xCC])
    (rest : List Answer) : triggerConversion p ⟨b, xs.flatMap Exchange.answers ++ rest⟩
      = .error (.stopped (.noValue .parasitic)) ⟨(b.spoke p xs).setSnPhase .broadcast, rest⟩ := by
  rw [triggerConversion_reaches b h rest, powerAndConvert, Op.bind_ok (look_apply _),
    show ((b.spoke p xs).setSnPhase .broadcast).parasitic = none from hp, Op.bind_error (present_none _ _)]

/-- The measurement reads `resolution` after the conversion command (rules R142, R144). -/
theorem snMeasure_stops (hp : b.parasitic = some par) (hr : b.resolution = none)
    (h : Serves xs ([.channelReset, .send 0xCC] ++ strongPullupCalls p par ++ [.send 0x44])) (rest : List Answer) :
    snMeasure p ⟨b, xs.flatMap Exchange.answers ++ rest⟩
      = .error (.stopped (.noValue .resolution)) ⟨(b.spoke p xs).setSnPhase .convertTriggered, rest⟩ := by
  rw [snMeasure_eq, Op.bind_ok (hears_triggerConversion p b hp h rest), Op.bind_ok (look_apply _),
    show ((b.spoke p xs).setSnPhase .convertTriggered).resolution = none from hr, Op.bind_error (present_none _ _)]

/-- Settles O36: `parasitic` is read after the skip-ROM byte, `resolution` after the conversion command. -/
theorem measurementWithoutValuesStops : Obligations.MeasurementWithoutValuesStops := by
  intro s xs later ho
  refine ⟨fun hp h => ?_, fun par hp hr h => ?_⟩
  · exact perform_stops (fun rest => Op.bind_error (Op.bind_error (triggerConversion_stops hp h rest))) ho
  · exact perform_stops (fun rest => Op.bind_error (snMeasure_stops hp hr h rest)) ho

end Sys2Proof.Machine
end

section
/-! The temperature decode (rules R58, R150, R151): the raw word as sign and magnitude, the result as the operation
computes it, and its closed form in sixteenths of a degree. -/

namespace Sys2Proof.Machine

variable {p : Params} {lsb msb : Byte} {res : ResCode}

/-! ### The raw word -/

/-- The raw word is its two bytes, the most significant first (rule R58). -/
theorem rawWord_eq_append (lsb msb : Byte) : rawWord lsb msb = msb ++ lsb := by
  rw [← BitVec.setWidth_eq (msb ++ lsb), BitVec.setWidth_append_eq_shiftLeft_setWidth_or]
  rfl

theorem toNat_append_byte (msb lsb : Byte) : (msb ++ lsb).toNat = msb.toNat * 256 + lsb.toNat := by
  rw [BitVec.toNat_append, ← Nat.shiftLeft_add_eq_or_of_lt lsb.isLt, Nat.shiftLeft_eq]

/-- The magnitude is the absolute value of the word in two's complement (rule R150). -/
theorem rawMagnitude_eq_abs (w : BitVec 16) : rawMagnitude w = w.abs := by
  rw [BitVec.abs_eq, BitVec.neg_eq_not_add]
  rfl

/-- `mag` and `sign` are the magnitude and the sign of the raw word `raw` (rule R150). -/
abbrev SignMagnitude (raw mag : Nat) (sign : ℚ) : Prop :=
  if raw < 0x8000 then mag = raw ∧ sign = 1 else mag = 0x10000 - raw ∧ sign = -1

/-- They are the ones the decode computes from the word. -/
theorem SignMagnitude.of_word {w : BitVec 16} {mag : Nat} {sign : ℚ} (h : SignMagnitude w.toNat mag sign) :
    (rawMagnitude w).toNat = mag ∧ (if w.getLsbD 15 then -1 else 1) = sign := by
  rw [rawMagnitude_eq_abs, BitVec.toNat_abs, show w.getLsbD 15 = w.msb from rfl, BitVec.msb_eq_decide]
  unfold SignMagnitude at h
  split at h
  case isTrue hw => obtain ⟨rfl, rfl⟩ := h; simp [hw]
  case isFalse hw => obtain ⟨rfl, rfl⟩ := h; simp [not_lt.mp hw]

/-- The sign of an integer, with zero taken as positive. -/
def signOf (z : Int) : ℚ := if z < 0 then -1 else 1

/-- Sign and magnitude of a word, from the integer it stands for in two's complement (rule R151). -/
theorem signMagnitude_toInt (w : BitVec 16) : SignMagnitude w.toNat w.toInt.natAbs (signOf w.toInt) := by
  have hw := w.isLt
  rw [BitVec.toInt_eq_toNat_cond, SignMagnitude, signOf]
  split
  case isTrue h => rw [if_pos (by omega), if_neg (by omega)]; exact ⟨rfl, rfl⟩
  case isFalse h => rw [if_neg (by omega), if_pos (by omega)]; exact ⟨by omega, rfl⟩

/-! ### The operation -/

theorem decodeShift_eq (res : ResCode) : decodeShift res = 3 - res.toNat := Nat.add_sub_add_right 3 9 res.toNat

/-- The result as the operation computes it: integer part and kept fraction (rule R150). -/
theorem decodeTemp_eq {mag : Nat} {sign : ℚ} (h : SignMagnitude (msb ++ lsb).toNat mag sign) : decodeTemp p lsb msb res
    = roundT p (sign * ((mag / 16 : Nat) + ((mag % 16) / 2 ^ (3 - res.toNat) : Nat) * (1 / 2 ^ (res.toNat + 1)))) := by
  rw [← rawWord_eq_append] at h
  obtain ⟨rfl, rfl⟩ := h.of_word
  have integer (m : BitVec 16) : (m >>> 4).toNat = m.toNat / 16 := by
    rw [BitVec.toNat_ushiftRight, Nat.shiftRight_eq_div_pow]
  have fraction (m : BitVec 16) (k : Nat) : ((m &&& 0xF#16) >>> k).toNat = m.toNat % 16 / 2 ^ k := by
    rw [BitVec.toNat_ushiftRight, BitVec.toNat_and, Nat.shiftRight_eq_div_pow]
    exact congrArg (· / 2 ^ k) (Nat.and_two_pow_sub_one_eq_mod m.toNat 4)
  have scale : decodeScale res = 1 / 2 ^ (res.toNat + 1) := rfl
  simp only [decodeTemp, integer, fraction, scale, decodeShift_eq]

/-- Settles O38: the decoder's row, and the operation, which computes its result at once. -/
theorem decodeHandsBackTheTemperature : Obligations.DecodeHandsBackTheTemperature := by
  refine ⟨fun _ => rfl, ?_⟩
  intro s lsb msb res raw mag sign hraw h
  rw [← decodeTemp_eq (p := s.params) (res := res) (lsb := lsb) (msb := msb) (by rwa [toNat_append_byte, ← hraw])]
  rfl

/-! ### The closed form -/

/-- Integer part and kept fraction together are the magnitude with its low `3 - r` bits cleared, in sixteenths. -/
theorem integer_add_fraction (mag r : Nat) (hr : r ≤ 3) :
    ((mag / 16 : Nat) + ((mag % 16) / 2 ^ (3 - r) : Nat) * (1 / 2 ^ (r + 1)) : ℚ)
      = (mag - mag % 2 ^ (3 - r) : Nat) / 16 := by
  have split : mag - mag % 2 ^ (3 - r) = mag / 16 * 16 + mag % 16 / 2 ^ (3 - r) * 2 ^ (3 - r) := by
    interval_cases r <;> norm_num <;> omega
  have scale : (2 : ℚ) ^ (3 - r) = 16 / 2 ^ (r + 1) := by
    rw [eq_div_iff (by positivity), ← pow_add, show 3 - r + (r + 1) = 4 by omega]
    norm_num
  rw [split]
  push_cast
  rw [scale]
  ring

theorem signOf_of_neg {z : Int} (h : z < 0) : signOf z = -1 := if_pos h

theorem signOf_of_nonneg {z : Int} (h : 0 ≤ z) : signOf z = 1 := if_neg (not_lt.mpr h)

theorem signOf_mul_natAbs (z : Int) : signOf z * (z.natAbs : ℚ) = z := by
  rw [Nat.cast_natAbs]
  rcases lt_or_ge z 0 with h | h
  · rw [signOf_of_neg h, abs_of_neg h, Int.cast_neg, neg_one_mul, neg_neg]
  · rw [signOf_of_nonneg h, abs_of_nonneg h, one_mul]

/-- The magnitude of zero is zero, so its sign does not matter. -/
theorem sign_mul_eq_signOf_mul {z : Int} {n : Nat} (h : n ≤ z.natAbs) : (z.sign : ℚ) * n = signOf z * n := by
  rcases lt_trichotomy z 0 with hz | rfl | hz
  · rw [signOf_of_neg hz, Int.sign_eq_neg_one_of_neg hz, Int.cast_neg, Int.cast_one]
  · rw [Nat.le_zero.mp h, Nat.cast_zero, mul_zero, mul_zero]
  · rw [signOf_of_nonneg hz.le, Int.sign_eq_one_of_pos hz, Int.cast_one]

theorem decodeTemp_closed (h : p.rounding = none) : decodeTemp p lsb msb res = signOf (msb ++ lsb).toInt
    * ((msb ++ lsb).toInt.natAbs - (msb ++ lsb).toInt.natAbs % 2 ^ (3 - res.toNat) : Nat) / 16 := by
  have hr := res.isLt
  rw [decodeTemp_eq (signMagnitude_toInt _), roundT_none h, integer_add_fraction _ _ (by omega), mul_div_assoc]

/-- A word's value, whatever of its low bits is cleared, is in the range of the sensor (rule R151). -/
theorem signOf_mul_range (w : BitVec 16) {n : Nat} (hn : n ≤ w.toInt.natAbs) :
    -2048 ≤ signOf w.toInt * n / 16 ∧ signOf w.toInt * n / 16 ≤ 32767 / 16 := by
  have hlo := w.le_toInt
  have hhi := w.toInt_lt
  have hn₀ : (0 : ℚ) ≤ n := n.cast_nonneg
  rcases lt_or_ge w.toInt 0 with h | h
  · have : (n : ℚ) ≤ 32768 := by exact_mod_cast (by omega : n ≤ 32768)
    rw [signOf_of_neg h]
    constructor <;> linarith
  · have : (n : ℚ) ≤ 32767 := by exact_mod_cast (by omega : n ≤ 32767)
    rw [signOf_of_nonneg h]
    constructor <;> linarith

/-- Settles O39: all three clauses are read off the closed form. -/
theorem decodeClosedForm : Obligations.DecodeClosedForm := by
  intro p lsb msb res h
  refine ⟨?_, ?_, ?_⟩
  · dsimp only
    rw [decodeTemp_closed h, sign_mul_eq_signOf_mul (Nat.sub_le _ _)]
  · rw [decodeTemp_closed h, show 3 - BitVec.toNat (3 : ResCode) = 0 from rfl, pow_zero, Nat.mod_one, Nat.sub_zero,
      signOf_mul_natAbs]
  · rw [decodeTemp_closed h]
    exact signOf_mul_range _ (Nat.sub_le _ _)

end Sys2Proof.Machine
end

section
/-! The Averaging Filter (43_filter.md): the three operations, and the window after any number of records, by induction
on the samples recorded since it was emptied. -/

namespace Sys2Proof.Machine

/-! ### The operations -/

/-- An operation that only computes has returned, and used up nothing of the outside world. -/
theorem complete_eq_returned (b : Block) (v : Option Value) (s : State) :
    complete b v s = .next (s.returned b s.outside v) := rfl

theorem exec_flRecord (sample : Temp) (s : State) :
    exec (.flRecord sample) s = .next (s.returned (s.block.record s.params sample) s.outside none) :=
  complete_eq_returned _ _ s

theorem exec_flAverage (s : State) :
    exec .flAverage s = .next (s.returned s.block s.outside (s.block.average.map .temp)) :=
  complete_eq_returned _ _ s

theorem exec_flReset (s : State) : exec .flReset s = .next (s.returned s.block.clearWindow s.outside none) :=
  complete_eq_returned _ _ s

/-- `FL_AVERAGE` hands back the sum over the current length, and no value for the empty window (rule R162). -/
theorem Block.average_map_temp (b : Block) :
    b.average.map Value.temp = if b.len = 0 then none else some (.temp (b.sum / b.len)) := by
  unfold Block.average
  split <;> rfl

/-- Settles O42: the average is handed back, or its absence, beside unchanged registers. -/
theorem averageWhole : Obligations.AverageWhole := by
  refine ⟨fun _ => rfl, fun s => ?_⟩
  rw [exec_flAverage, Block.average_map_temp]

/-! ### Writing the window -/

/-- The window is written whole, so only the last write of it shows. -/
@[simp] theorem Block.setWindow_setWindow (b : Block) (w w' : List Temp) (x x' : Temp) :
    (b.setWindow w x).setWindow w' x' = b.setWindow w' x' := rfl

/-- Settles O43: the reset writes the empty window, and of two writes of the window the last one shows. -/
theorem filterResetWhole : Obligations.FilterResetWhole :=
  ⟨fun _ => rfl, exec_flReset, fun b => b.setWindow_setWindow [] [] 0 0⟩

/-! ### One record -/

section
variable {p : Params} {b : Block}

/-- Below the capacity the sample enters and nothing leaves (rule R161). -/
theorem Block.record_of_lt (h : b.win.length < 16) (sample : Temp) : b.record p sample =
    b.setWindow (b.win ++ [roundT p (toUnit sample b.unit)]) (b.sum + roundT p (toUnit sample b.unit)) := by
  rw [Block.record_eq]
  exact if_pos h

/-- At the capacity the sample enters and the oldest leaves (rule R161). -/
theorem Block.record_of_full {oldest : Temp} {rest : List Temp} (hw : b.win = oldest :: rest) (h : 16 ≤ b.win.length)
    (sample : Temp) : b.record p sample =
    b.setWindow (rest ++ [roundT p (toUnit sample b.unit)]) (b.sum + roundT p (toUnit sample b.unit) - oldest) := by
  rw [Block.record_eq, hw]
  exact if_neg (not_lt.mpr (hw ▸ h))

end

/-- Settles O40, below the capacity and at it. -/
theorem recordWhole : Obligations.RecordWhole := by
  refine ⟨fun _ => rfl, fun s sample x hx => ?_⟩
  have hx : x = roundT s.params (toUnit sample s.block.unit) := by
    cases hu : s.block.unit <;> rw [hx, hu] <;> rfl
  refine ⟨fun h => ?_, fun oldest rest hw h => ?_⟩
  · rw [exec_flRecord, Block.record_of_lt h, ← hx, Block.setWindow, List.length_append]
    rfl
  · rw [exec_flRecord, Block.record_of_full hw h, ← hx, Block.setWindow, hw, List.length_append]
    rfl

/-! ### Any number of records (rule R166 a) -/

/-- The last sixteen of a list of samples, or all of them if they are fewer. -/
def lastSixteen (xs : List Temp) : List Temp := xs.drop (xs.length - 16)

theorem length_lastSixteen (xs : List Temp) : (lastSixteen xs).length = min xs.length 16 := by
  rw [lastSixteen, List.length_drop]
  omega

/-- While there is room, a new sample is one more of the last sixteen. -/
theorem lastSixteen_concat_of_lt {xs : List Temp} (h : xs.length < 16) (x : Temp) :
    lastSixteen (xs ++ [x]) = lastSixteen xs ++ [x] := by
  have hold : xs.length - 16 = 0 := by omega
  have hnew : xs.length + 1 - 16 = 0 := by omega
  simp [lastSixteen, hold, hnew]

/-- Once there are sixteen, a new sample pushes the oldest of them out. -/
theorem lastSixteen_concat_of_le {xs : List Temp} (h : 16 ≤ xs.length) (x : Temp) :
    lastSixteen (xs ++ [x]) = (lastSixteen xs).tail ++ [x] := by
  have hlen : (xs ++ [x]).length - 16 = xs.length - 16 + 1 := by simp; omega
  rw [lastSixteen, hlen, List.drop_append_of_le_length (by omega), lastSixteen, List.tail_drop]

/-- One record on a window that holds the last sixteen samples, with their sum: it holds the last sixteen again. -/
theorem Block.record_lastSixteen (p : Params) (b : Block) (xs : List Temp) (sample : Temp) :
    (b.setWindow (lastSixteen xs) (lastSixteen xs).sum).record p sample =
      b.setWindow (lastSixteen (xs ++ [roundT p (toUnit sample b.unit)]))
        (lastSixteen (xs ++ [roundT p (toUnit sample b.unit)])).sum := by
  have hlen := length_lastSixteen xs
  by_cases h : xs.length < 16
  · rw [Block.record_of_lt (by rw [setWindow_win]; omega), lastSixteen_concat_of_lt h]
    simp
  · obtain ⟨oldest, rest, hw⟩ := List.exists_cons_of_length_pos (l := lastSixteen xs) (by omega)
    rw [Block.record_of_full hw (by rw [setWindow_win]; omega), lastSixteen_concat_of_le (not_lt.mp h), hw]
    simp [add_assoc]

/-- After any records on an emptied window it holds the last sixteen converted samples, with their sum. -/
theorem Block.foldl_record_clearWindow (p : Params) (b : Block) (samples : List Temp) :
    samples.foldl (fun b x => b.record p x) b.clearWindow =
      b.setWindow (lastSixteen (samples.map fun x => roundT p (toUnit x b.unit)))
        (lastSixteen (samples.map fun x => roundT p (toUnit x b.unit))).sum := by
  induction samples using List.reverseRecOn with
  | nil => rfl
  | append_singleton samples x ih =>
    rw [List.foldl_append, ih, List.map_append]
    exact Block.record_lastSixteen p b _ x

/-- Settles O41: all four registers are read off the window after the records, which is not empty. -/
theorem windowHoldsTheLastSixteen : Obligations.WindowHoldsTheLastSixteen := by
  intro p b samples hne
  have hlen := length_lastSixteen (samples.map fun x => roundT p (toUnit x b.unit))
  rw [List.length_map] at hlen
  have hpos := List.length_pos_iff.mpr hne
  dsimp only
  rw [Block.foldl_record_clearWindow]
  exact ⟨rfl, hlen, rfl, Block.average_setWindow b _ _ (List.ne_nil_of_length_pos (by omega))⟩

end Sys2Proof.Machine
end

section
/-! The Hysteresis Controller (44_controller.md): the transition function mode by mode, the operations on the
setpoint, the unit and the mode, and which instruction may turn an actuator on. -/

namespace Sys2Proof.Machine

/-! ### The transition function, by mode -/

section
variable (q : CtlState) (avg target high low : Temp)

/-- Mode off gives idle (rule R177 e). -/
theorem nextState_off : nextState .off q avg target high low = .idle := by simp [nextState]

theorem nextState_cool : nextState .cool q avg target high low =
    if high ≤ avg then .cooling else if avg ≤ target then .idle else q := by simp [nextState]

theorem nextState_heat : nextState .heat q avg target high low =
    if avg ≤ low then .heating else if target ≤ avg then .idle else q := by simp [nextState]

/-- In mode hold, idle is the one state from which an actuator can start; cooling comes first (rule R171). -/
theorem nextState_hold_idle : nextState .hold .idle avg target high low =
    if high ≤ avg then .cooling else if avg ≤ low then .heating else .idle := by simp [nextState]

theorem nextState_hold_cooling : nextState .hold .cooling avg target high low =
    if avg ≤ target then .idle else .cooling := by simp [nextState]

theorem nextState_hold_heating : nextState .hold .heating avg target high low =
    if target ≤ avg then .idle else .heating := by simp [nextState]

end

/-- Settles O46: in mode hold the two active states go on or go to idle, and nowhere else. -/
theorem holdPassesThroughIdle : Obligations.HoldPassesThroughIdle := by
  intro q avg target high low
  refine ⟨?_, ?_, nextState_off q avg target high low⟩
  · rintro rfl
    rw [nextState_hold_cooling]
    split <;> exact nofun
  · rintro rfl
    rw [nextState_hold_heating]
    split <;> exact nofun

/-! ### The evaluation -/

/-- In a legal state `CT_EVAL` returns, having written `state` alone (rule R171). -/
theorem ctEval_legal {b : Block} (h : b.state ≠ .reserved) (avg : Temp) (as : List Answer) :
    ctEval avg ⟨b, as⟩ = .ok () ⟨b.setState (b.evaluated avg), as⟩ := by
  rw [ctEval, Op.bind_ok (look_apply _), decide_eq_true h, Op.bind_ok (require_true _ _), update_apply]

theorem exec_ctEval {s : State} (h : s.block.state ≠ .reserved) (avg : Temp) :
    exec (.ctEval avg) s = .next (s.returned (s.block.setState (s.block.evaluated avg)) s.outside none) :=
  perform_returns (as := []) (fun rest => Op.bind_ok (ctEval_legal h avg rest)) rfl

/-- Settles O44: the evaluation writes `nextState` of the controller's registers, which is read off for each row. -/
theorem evaluationTransitionTable : Obligations.EvaluationTransitionTable := by
  intro s avg q' m q lo tg hi hm hq hlo htg hhi hlegal row
  have next : nextState m q avg tg hi lo = q' := by
    rcases row with ⟨rfl, rfl⟩
      | ⟨rfl, above, rfl⟩ | ⟨rfl, below, reached, rfl⟩ | ⟨rfl, between, below, rfl⟩
      | ⟨rfl, below, rfl⟩ | ⟨rfl, above, reached, rfl⟩ | ⟨rfl, above, between, rfl⟩
      | ⟨rfl, rfl, above, rfl⟩ | ⟨rfl, rfl, below, cold, rfl⟩ | ⟨rfl, rfl, above, below, rfl⟩
      | ⟨rfl, rfl, reached, rfl⟩ | ⟨rfl, rfl, above, rfl⟩ | ⟨rfl, rfl, reached, rfl⟩ | ⟨rfl, rfl, below, rfl⟩
    · exact nextState_off ..
    -- cool
    · rw [nextState_cool, if_pos above]
    · rw [nextState_cool, if_neg below.not_ge, if_pos reached]
    · rw [nextState_cool, if_neg below.not_ge, if_neg between.not_ge]
    -- heat
    · rw [nextState_heat, if_pos below]
    · rw [nextState_heat, if_neg above.not_ge, if_pos reached]
    · rw [nextState_heat, if_neg above.not_ge, if_neg between.not_ge]
    -- hold, from idle
    · rw [nextState_hold_idle, if_pos above]
    · rw [nextState_hold_idle, if_neg below.not_ge, if_pos cold]
    · rw [nextState_hold_idle, if_neg below.not_ge, if_neg above.not_ge]
    -- hold, from cooling and from heating
    · rw [nextState_hold_cooling, if_pos reached]
    · rw [nextState_hold_cooling, if_neg above.not_ge]
    · rw [nextState_hold_heating, if_pos reached]
    · rw [nextState_hold_heating, if_neg below.not_ge]
  subst hm hq hlo htg hhi
  rw [exec_ctEval hlegal, Block.evaluated, next]
  rfl

/-! ### The setpoint and the unit -/

theorem exec_ctSettarget (x : Temp) (s : State) :
    exec (.ctSettarget x) s = .next (s.returned (s.block.setSetpoint x s.block.hyst) s.outside none) :=
  complete_eq_returned _ _ s

theorem exec_ctSethyst (h : Temp) (s : State) :
    exec (.ctSethyst h) s = .next (s.returned (s.block.setSetpoint s.block.target h) s.outside none) :=
  complete_eq_returned _ _ s

theorem exec_ctSetunit (u : TempUnit) (s : State) :
    exec (.ctSetunit u) s = .next (s.returned (s.block.changeUnit u) s.outside none) :=
  complete_eq_returned _ _ s

/-- Settles O47: both mutators are the one write of the setpoint, which derives the thresholds. -/
theorem setpointMutators : Obligations.SetpointMutators :=
  ⟨fun _ => ⟨rfl, rfl⟩, fun s x => ⟨exec_ctSettarget x s, fun _ => exec_ctSethyst x s⟩⟩

/-- Settles O48: the operation writes what a change of unit writes, the unit and the emptied window. -/
theorem setUnitWhole : Obligations.SetUnitWhole :=
  ⟨fun _ => rfl, fun s u => exec_ctSetunit u s⟩

/-! ### The mode -/

theorem exec_ctModeNext (s : State) :
    exec .ctModeNext s = .next (s.returned (s.block.setMode s.block.mode.next) s.outside none) :=
  complete_eq_returned _ _ s

theorem exec_ctModePrev (s : State) :
    exec .ctModePrev s = .next (s.returned (s.block.setMode s.block.mode.prev) s.outside none) :=
  complete_eq_returned _ _ s

/-- Each step of the four-cycle off, cool, heat, hold is taken forward by `next` and back by `prev`. -/
theorem Mode.next_prev_of_mem_cycle {m n : Mode}
    (h : (m, n) ∈ [(Mode.off, Mode.cool), (.cool, .heat), (.heat, .hold), (.hold, .off)]) :
    m.next = n ∧ n.prev = m := by
  simp only [List.mem_cons, Prod.mk.injEq, List.not_mem_nil, or_false] at h
  obtain ⟨rfl, rfl⟩ | ⟨rfl, rfl⟩ | ⟨rfl, rfl⟩ | ⟨rfl, rfl⟩ := h <;> exact ⟨rfl, rfl⟩

/-- Settles O49: both operations write the mode alone, and `next` and `prev` walk the cycle. -/
theorem modeCycling : Obligations.ModeCycling := by
  refine ⟨fun _ => ⟨rfl, rfl⟩, fun s m n h => ?_⟩
  obtain ⟨hnext, hprev⟩ := Mode.next_prev_of_mem_cycle h
  refine ⟨fun hm => ?_, fun hn => ?_⟩
  · rw [exec_ctModeNext, hm, hnext]; rfl
  · rw [exec_ctModePrev, hn, hprev]; rfl

/-! ### The actuators -/

section
variable {p : Params} {b b' : Block} {i : Instr}

theorem Block.Onward.drive (h : b.Onward b') : b'.drive = b.drive := by rw [h.others]; rfl

@[simp] theorem Block.record_drive (p : Params) (b : Block) (x : Temp) : (b.record p x).drive = b.drive := by
  obtain ⟨win, sum, _, h⟩ := b.record_setWindow p x
  rw [h, Block.setWindow_drive]

@[simp] theorem Block.record_lastReading (p : Params) (b : Block) (x : Temp) :
    (b.record p x).lastReading = b.lastReading := by
  obtain ⟨win, sum, _, h⟩ := b.record_setWindow p x
  rw [h, Block.setWindow_lastReading]

@[simp] theorem Block.changeUnit_drive (b : Block) (u : TempUnit) : (b.changeUnit u).drive = b.drive := by
  unfold Block.changeUnit
  split <;> rfl

/-- The last event of the history is the notification of the last reading (rule R196). -/
def Block.NotifiedOfReading (b : Block) : Prop :=
  ∃ v before, b.history = before ++ [.notify (.measurementComplete v)] ∧ b.lastReading = some v

/-- A successful tick notifies the host last, of the reading it has recorded. -/
theorem Block.ticked_notifiedOfReading (p : Params) (b : Block) (v : Temp) : (b.ticked p v).NotifiedOfReading :=
  ⟨v, _, rfl, Block.record_lastReading p (b.setLastReading v) v⟩

/-- An instruction that has ended without an error leaves `drive` as it was, or was a successful tick. -/
theorem Block.Done.drive (hd : Block.Done p b i b') :
    b'.drive = b.drive ∨ i = .orchTick ∧ b.ticking = true ∧ b'.NotifiedOfReading := by
  cases hd with
  | onward ho _ => exact .inl ho.drive
  | recorded x => exact .inl (Block.record_drive p b x)
  | unitChanged u => exact .inl (Block.changeUnit_drive b u)
  | initialised ho _ _ => exact .inl ho.drive
  | ticked ht _ _ _ => exact .inr ⟨rfl, ht, Block.ticked_notifiedOfReading p _ _⟩
  | cleared => exact .inl rfl
  | retargeted => exact .inl rfl
  | rebanded => exact .inl rfl
  | modeNext => exact .inl rfl
  | modePrev => exact .inl rfl
  | restarted => exact .inl rfl
  | evaluated => exact .inl rfl

end

/-- Settles O56, by how an instruction can end: a raised error turns `drive` off, and one that waits has not written
it. -/
theorem onlyATickTurnsAnActuatorOn : Obligations.OnlyATickTurnsAnActuatorOn := by
  intro i s t h
  rcases exec_next h with ⟨b, _, _, hd, rfl⟩ | ⟨e, b, _, _, -, rfl⟩ | ⟨b, ho, _, _, rfl⟩ | ⟨_, rfl⟩
  · rcases hd.drive with unchanged | ⟨tick, ticking, notified⟩
    · exact .inl unchanged
    · exact .inr (.inr ⟨tick, ticking, rfl, notified⟩)
  · exact .inr (.inl (b.safeState_drive e))
  · exact .inl ho.drive
  · exact .inl rfl

end Sys2Proof.Machine
end

section
/-! The Polling Orchestrator (45_orchestrator.md): the tick that is let pass, the tick on a conversation, every ending of
a tick, and the start. -/

namespace Sys2Proof.Machine

variable {p : Params} {b b' : Block} {s : State}

/-! ### The start and the halted tick -/

/-- Settles O50: only a ticking block performs the cycle. -/
theorem haltedTickDoesNothing : Obligations.HaltedTickDoesNothing := by
  intro s ht
  exact if_neg (by rw [ht]; exact Bool.false_ne_true)

/-- Settles O54: an initialised block restarts, any other is turned away. -/
theorem orchestratorStartWhole : Obligations.OrchestratorStartWhole := by
  refine ⟨fun _ => rfl, fun s => ⟨fun hi => ?_, exec_orchStart_uninitialized⟩⟩
  have restarts : exec .orchStart s = complete s.block.restart none s := if_pos hi
  exact restarts.trans (complete_eq_returned _ _ s)

theorem exec_orchTick_ticking (ht : s.block.ticking = true) :
    exec .orchTick s = perform .orchTick false (noResult (tickBody s.params)) s := if_pos ht

/-! ### What the cycle writes -/

/-- The controller reads its own registers only, which recording a sample leaves alone. -/
theorem Block.record_evaluated (p : Params) (b : Block) (x avg : Temp) :
    (b.record p x).evaluated avg = b.evaluated avg := by
  obtain ⟨win, sum, _, h⟩ := b.record_setWindow p x
  rw [h]; rfl

@[simp] theorem Block.record_state (p : Params) (b : Block) (x : Temp) : (b.record p x).state = b.state := by
  obtain ⟨win, sum, _, h⟩ := b.record_setWindow p x
  rw [h, Block.setWindow_state]

@[simp] theorem Block.record_error (p : Params) (b : Block) (x : Temp) : (b.record p x).error = b.error := by
  obtain ⟨win, sum, _, h⟩ := b.record_setWindow p x
  rw [h, Block.setWindow_error]

/-- After a sample has been recorded there is an average (rule R162). -/
theorem Block.average_record (p : Params) (b : Block) (x : Temp) :
    (b.record p x).average = some ((b.record p x).sum / (b.record p x).len) := by
  obtain ⟨win, sum, hw, h⟩ := b.record_setWindow p x
  rw [h, Block.average_setWindow b win sum hw]; rfl

/-- Heating as heat, cooling as cool, anything else as off (rule R175). -/
theorem driveOf_eq (q : CtlState) :
    driveOf q = if q = .heating then .heat else if q = .cooling then .cool else .off := by
  cases q <;> rfl

/-- One write of `drive`: an event where it is a change (rule R69). -/
theorem Block.putDrive_eq (b : Block) (d : Drive) :
    b.putDrive d = { b with drive := d, history := b.history ++ if b.drive = d then [] else [.drive d] } := by
  rw [← Block.putDrive_history_append]
  rfl

/-- What a successful tick writes, from the registers `b` after its record (rules R178, R196). -/
theorem Block.ticked_eq {b₀ : Block} {v : Temp} {q : CtlState} {d : Drive} (hb : b = (b₀.setLastReading v).record p v)
    (hq : q = b₀.evaluated (b.sum / b.len)) (hd : d = driveOf q) : b₀.ticked p v = { b with
      state := q
      drive := d
      history := b.history ++ (if b₀.drive = d then [] else [.drive d]) ++ [.notify (.measurementComplete v)] } := by
  have evaluated : b.evaluated (b.sum / b.len) = q := by rw [hq, hb, Block.record_evaluated]; rfl
  have drive : b.drive = b₀.drive := by rw [hb, Block.record_drive, Block.setLastReading_drive]
  rw [Block.ticked, ← hb, evaluated, Block.applyDrive, Block.setState_state, ← hd, Block.putDrive_eq, ← drive]
  rfl

/-! ### The tick on a conversation -/

/-- After its measurement the cycle of a tick hears nothing more, and in a legal state it returns (rule R196). -/
theorem tickBody_hears {v : Temp} {xs : List Exchange} (h : (snMeasure p).Hears b xs v b')
    (hs : b'.state ≠ .reserved) : (tickBody p).Hears b xs () (b'.ticked p v) := by
  intro rest
  have legal : ((b'.setLastReading v).record p v).state ≠ .reserved := by rwa [Block.record_state]
  rw [tickBody, Op.bind_ok (h rest), Op.bind_ok (update_apply _ _), Op.bind_ok (update_apply _ _),
    Op.bind_ok (look_apply _), Block.average_record, Op.bind_ok (present_some _ _ _),
    Op.bind_ok (ctEval_legal legal _ _), Op.bind_ok (update_apply _ _), update_apply]
  rfl

/-- The trigger, the invalid scratchpads, then the valid one: what a measurement comes to (rules R142 to R148). -/
theorem snMeasure_hears {res : ResCode} {par : Bool} {xs ys : List Exchange} {sp : Vector Byte 9}
    {bad : List (List Exchange × Vector Byte 9)} (hp : b.parasitic = some par) (hr : b.resolution = some res)
    (h : Serves xs (triggerCalls p par res)) (hbad : ∀ y ∈ bad, ReadsInvalid p y)
    (hl : ∀ n, p.retryLimit = some n → bad.length < n) (hy : Serves ys readScratchpadCalls)
    (hd : ys.filterMap Exchange.data = sp.toList) (hv : recordValid p sp.toList 8 = true) :
    (snMeasure p).Hears b (xs ++ bad.flatMap Prod.fst ++ ys) (decodeTemp p sp[0] sp[1] res)
      { b.conversed p (xs ++ bad.flatMap Prod.fst ++ ys) with
        snPhase := .idle, brPhase := .brIdle, sp := some sp } := by
  have reading := readTemperature_hears (res := res) (ws := xs ++ bad.flatMap Prod.fst)
    (fun h => lt_irrefl _ (hl _ h)) hy hd hv ((b.setSnPhase .converting).reread bad)
  have measured := (snMeasure_reaches_reread hp hr h hbad fun n h => (hl n h).le).trans reading
  rwa [Block.reread_setSnPhase] at measured

/-- An operation that returns and whose result is not handed back (rule R214). -/
theorem perform_returns_unreported {i : Instr} {op : Op (Option Value)} {xs : List Exchange} {later : List Stimulus}
    {v : Option Value} (h : op.Hears s.block xs v b) (ho : s.Hears xs later) :
    perform i false op s = .next { s with block := b, busy := none, outside := later } := by
  have returns := h (takeAnswers later).1
  simp only [perform, ho, takeAnswers_append, returns, takeAnswers_join, Bool.false_eq_true, if_false]

/-- Settles O51: the measurement on its conversation, and the rest of the cycle on what it leaves. -/
theorem tickSucceeds : Obligations.TickSucceeds := by
  rintro s res par xs bad ys sp later _ v a b q d ht hp hr hs h hbad hl hy hd hv rfl ho rfl hb rfl hq hdrive
  have measured := snMeasure_hears hp hr h hbad hl hy hd hv
  have ticks := tickBody_hears measured hs
  rw [Block.ticked_eq (b := b) ?_ ?_ (hdrive.trans (driveOf_eq q).symm)] at ticks
  · rw [exec_orchTick_ticking ht]
    exact perform_returns_unreported (fun rest => Op.bind_ok (ticks rest)) ho
  · exact hb
  · exact hq

/-! ### Every ending of a tick -/

theorem Block.Onward.error (h : b.Onward b') : b'.error = b.error := by rw [h.others]; rfl

@[simp] theorem Block.ticked_error (p : Params) (b : Block) (v : Temp) : (b.ticked p v).error = b.error :=
  Block.record_error p (b.setLastReading v) v

@[simp] theorem Block.ticked_ticking (p : Params) (b : Block) (v : Temp) : (b.ticked p v).ticking = b.ticking :=
  Block.record_ticking p (b.setLastReading v) v

/-- Settles O52: the tick has done its whole cycle, or its measurement raised with only the bus registers written. -/
theorem failedTickLeavesTheControllerAlone : Obligations.FailedTickLeavesTheControllerAlone := by
  intro s t ht hs h hb
  rw [exec_orchTick_ticking ht] at h
  rcases perform_next (ends_noResult (ends_tickBody s.params s.block)) h with
    ⟨_, _, later, ⟨-, -, b₀, v, ho, -, -, rfl⟩, rfl⟩ | ⟨e, b, later, ⟨ho, he, -⟩ | ⟨reserved, -⟩, rfl⟩ | ⟨_, -, rfl⟩
  · obtain ⟨w, before, notified, reading⟩ := Block.ticked_notifiedOfReading s.params b₀ v
    exact ⟨rfl, .inl ⟨w, before, notified, reading, (Block.ticked_error _ b₀ v).trans ho.error,
      (Block.ticked_ticking _ b₀ v).trans (ho.ticking.trans ht)⟩⟩
  · exact ⟨rfl, .inr ⟨e, _, (he e rfl).1, b.safeState_history e, ho.safeState_eq e⟩⟩
  · exact absurd reserved hs
  · cases hb

end Sys2Proof.Machine
end

section
/-! Taking an exception (60_exceptions.md): what the safe state writes, and which error codes are fatal. -/

namespace Sys2Proof.Machine

/-- The whole safe state: two control registers, the error, and the history (rule R222). -/
theorem Block.safeState_eq (b : Block) (e : Err) : b.safeState e = { b with
    drive := .off
    ticking := false
    error := e
    history := b.history ++ (if b.drive = .off then [] else [.drive .off]) ++ [.notify (.fatalError e)] } := by
  rw [← Block.safeState_history_append]
  rfl

/-- The fatal kinds by the value of their code (rule R212). -/
theorem Err.fatal_iff (e : Err) : e.fatal = true ↔ 1 ≤ e.code.toNat ∧ e.code.toNat ≤ 6 := by
  simp only [Err.fatal, Bool.and_eq_true, decide_eq_true_eq, BitVec.le_def, BitVec.toNat_ofNat, Nat.reducePow,
    Nat.reduceMod]

/-- Settles O55: the whole safe state, the code of each kind (rule R211), and the fatal codes. -/
theorem safeStateWhole : Obligations.SafeStateWhole := by
  refine ⟨Block.safeState_eq, ?_, Err.fatal_iff⟩
  intro e
  cases e <;> simp [Err.code]

end Sys2Proof.Machine
end
